-- ==== Sys2Proof/Word.lean ====
section
/-! DEFINITION. The one word the block computes with: the unsigned byte (00_scope.md R11). -/

namespace Sys2Proof

/-- A byte: bit 0 is the least significant bit, bit 7 the MSB (R11). -/
abbrev Byte := BitVec 8

end Sys2Proof
end

