-- ==== Sys2Proof/Syntax.lean ====
section
/-! DEFINITION. The operations of 30_encoding.md R183, one constructor per row of opcode_table.json. -/

namespace Sys2Proof

/-- The block's operations (R183), in the table's order. -/
inductive Instr where
  | setout
  | setin
  | drvh
  | drvl
  | rdlvl
  /-- `sel` is the timing selector of R182. -/
  | delay (sel : BitVec 4)
  | waith
  /-- `b` is `imm8[0]`: 1 is true (R181). -/
  | wrbit (b : Bool)
  | rdbit
  | wrbyte (v : Byte)
  | rdbyte
  | ssync
  | rsync
  | ckclr
  | ckadd (v : Byte)
  | ckaddr
  | ckfold
  | ckcmp
  | edgeen
  | edgedis
  | irqoff
  | irqon
  | initi
  | initt
  | txn
  /-- Event-only: interrupt delivery enters it (R184, R461). -/
  | tgtisr
deriving DecidableEq, Repr

end Sys2Proof
end

