-- ==== Sys2Proof/WellFormed.lean ====
section
/-! DEFINITION. Which terms of `Instr` are operations of R183 (selectors 10 to 15 are reserved, R182), and which of
them may stand in a sequence of operations (R184). -/

namespace Sys2Proof

/-- The term is an operation of R183: a DELAY selector names a parameter of R182. -/
def Instr.wf : Instr → Bool
  | .delay sel => sel.toNat < 10
  | _ => true

/-- The operation may stand in a sequence of operations: all but the event-only TGTISR (R184). -/
def Instr.issuable : Instr → Bool
  | .tgtisr => false
  | _ => true

end Sys2Proof
end

