-- ==== Sys2Proof/Decode.lean ====
section
/-! DEFINITION. The decoder and the encoder of the operation words (30_encoding.md R180 to R184). -/

namespace Sys2Proof

/-- The three formats of R180. -/
inductive Format where
  | Z
  | B
  | P
deriving DecidableEq, Repr

/-- What a byte sequence decodes to: an operation and the bytes after it, or a refusal of R184 with the opcode byte
and the bytes after it, or nothing (no byte at all). -/
inductive Decoded where
  | op (i : Instr) (rest : List Byte)
  | illegalOp (opcode : Byte) (rest : List Byte)
  | badOperand (opcode : Byte) (rest : List Byte)
  | empty
deriving DecidableEq, Repr

/-- The format of an opcode of R183; an opcode outside the map is illegal (R184). -/
def formatOf (op : Byte) : Option Format :=
  match op.toNat with
  | 0x01 | 0x02 | 0x03 | 0x04 | 0x05 => some .Z
  | 0x10 => some .P
  | 0x11 => some .Z
  | 0x20 => some .B
  | 0x21 => some .Z
  | 0x22 => some .B
  | 0x23 => some .Z
  | 0x30 | 0x31 => some .Z
  | 0x40 => some .Z
  | 0x41 => some .B
  | 0x42 | 0x43 | 0x44 => some .Z
  | 0x50 | 0x51 | 0x52 | 0x53 => some .Z
  | 0x60 | 0x61 | 0x62 | 0x63 => some .Z
  | _ => none

/-- The Z-format operations of R183. -/
def decodeZ (op : Byte) : Option Instr :=
  match op.toNat with
  | 0x01 => some .setout
  | 0x02 => some .setin
  | 0x03 => some .drvh
  | 0x04 => some .drvl
  | 0x05 => some .rdlvl
  | 0x11 => some .waith
  | 0x21 => some .rdbit
  | 0x23 => some .rdbyte
  | 0x30 => some .ssync
  | 0x31 => some .rsync
  | 0x40 => some .ckclr
  | 0x42 => some .ckaddr
  | 0x43 => some .ckfold
  | 0x44 => some .ckcmp
  | 0x50 => some .edgeen
  | 0x51 => some .edgedis
  | 0x52 => some .irqoff
  | 0x53 => some .irqon
  | 0x60 => some .initi
  | 0x61 => some .initt
  | 0x62 => some .txn
  | 0x63 => some .tgtisr
  | _ => none

/-- The operand byte of a P-format word (R181, R182): bits 7:4 are 0 and `sel` names a parameter. -/
def decodeSel (x : Byte) : Option Instr :=
  if x.toNat < 10 then some (.delay (x.setWidth 4)) else none

/-- The operand byte of a B-format word (R181): WRBIT needs `imm8[7:1] = 0`. -/
def decodeImm (op x : Byte) : Option Instr :=
  match op.toNat with
  | 0x20 => if x.toNat < 2 then some (.wrbit (x.getLsbD 0)) else none
  | 0x22 => some (.wrbyte x)
  | 0x41 => some (.ckadd x)
  | _ => none

/-- The decoder of the opcode map, total on any bytes (R183, R184). A two-byte word whose operand byte is missing is a
bad operand (DESIGN CHOICE, log entry 10). -/
def decode : List Byte → Decoded
  | [] => .empty
  | op :: rest =>
    match formatOf op with
    | none => .illegalOp op rest
    | some .Z =>
      match decodeZ op with
      | some i => .op i rest
      | none => .illegalOp op rest
    | some .P =>
      match rest with
      | [] => .badOperand op []
      | x :: rest' =>
        match decodeSel x with
        | some i => .op i rest'
        | none => .badOperand op rest'
    | some .B =>
      match rest with
      | [] => .badOperand op []
      | x :: rest' =>
        match decodeImm op x with
        | some i => .op i rest'
        | none => .badOperand op rest'

/-- The decoder of a sequence of operations: the word 0x63 names the handler and is refused there (R184). -/
def decodeSequence (bytes : List Byte) : Decoded :=
  match decode bytes with
  | .op i rest => if i.issuable then .op i rest else .illegalOp 0x63 rest
  | d => d

/-- The opcode of an operation (R183). -/
def Instr.opcode : Instr → Byte
  | .setout => 0x01
  | .setin => 0x02
  | .drvh => 0x03
  | .drvl => 0x04
  | .rdlvl => 0x05
  | .delay _ => 0x10
  | .waith => 0x11
  | .wrbit _ => 0x20
  | .rdbit => 0x21
  | .wrbyte _ => 0x22
  | .rdbyte => 0x23
  | .ssync => 0x30
  | .rsync => 0x31
  | .ckclr => 0x40
  | .ckadd _ => 0x41
  | .ckaddr => 0x42
  | .ckfold => 0x43
  | .ckcmp => 0x44
  | .edgeen => 0x50
  | .edgedis => 0x51
  | .irqoff => 0x52
  | .irqon => 0x53
  | .initi => 0x60
  | .initt => 0x61
  | .txn => 0x62
  | .tgtisr => 0x63

/-- The operand byte of an operation, where its format has one (R180, R181). -/
def Instr.operand : Instr → List Byte
  | .delay sel => [sel.setWidth 8]
  | .wrbit b => [if b then 0x01 else 0x00]
  | .wrbyte v => [v]
  | .ckadd v => [v]
  | _ => []

/-- The operation word, first byte first (R180). -/
def encode (i : Instr) : List Byte := i.opcode :: i.operand

/-- The bytes of a word numbered as opcode_table.json numbers it: one number, the opcode in bits 15:8 of a two-byte
word, which is its first byte (R180; log entry 24). -/
def tableBytes (nbits w : Nat) : List Byte :=
  if nbits ≤ 8 then [BitVec.ofNat 8 w] else [BitVec.ofNat 8 (w / 256), BitVec.ofNat 8 w]

/-- The operation the decoder reads from a word of the table. -/
def decodeTableWord (nbits w : Nat) : Option Instr :=
  match decode (tableBytes nbits w) with
  | .op i _ => some i
  | _ => none

end Sys2Proof
end

