-- ==== Sys2Proof/Config.lean ====
section
/-! DEFINITION. The implementation parameters of 00_scope.md R10 and 93_implementation_defined.md section 2, and
the values nothing in the spec fixes. The parameters travel in State (log entry 1), so that every statement holds for
every configuration; the constants here have no body where R10 says OPEN. -/

namespace Sys2Proof

/-- The sample noise model (R10, R268). -/
inductive Noise where
  | none
  | arbitrary
deriving DecidableEq, Repr

/-- The parameters of R10; all times in nanoseconds. `T_BIT` is `T_CELL + T_FUDGE` (R10, R267) and has no field of its
own (log entry 20). `T_PROP` is 0 and has no field (R230). `TABLE` is an argument of an operation and `ROLE_OF` is
external (R10). -/
structure Params where
  tReq : Nat
  tSettle : Nat
  tSync : Nat
  tHalf : Nat
  tCell : Nat
  tFudge : Nat
  tRxBit : Nat
  tDrain : Nat
  tRel : Nat
  jDelay : Nat
  jPoll : Nat
  lambdaMax : Nat
  wEdgeMin : Nat
  noise : Noise
  maxLen : Nat
  idxW : Nat
  /-- `I.IE` at reset: host-owned, OPEN (R66). -/
  ieResetI : Bool
  /-- `T.IE` at reset: host-owned, OPEN (R66). -/
  ieResetT : Bool
deriving DecidableEq, Repr

/-- `T_BIT = T_CELL + T_FUDGE` (R10). -/
def Params.tBit (p : Params) : Nat := p.tCell + p.tFudge

/-- A legal timing configuration (R267), with the constraints of 93 section 2 on the OPEN widths. The condition
`T_BIT = T_CELL + T_FUDGE` holds by construction. -/
abbrev Params.Legal (p : Params) : Prop :=
  1 ≤ p.jPoll ∧ p.wEdgeMin ≤ p.tReq ∧ p.maxLen < 2 ^ p.idxW ∧ 1 ≤ p.idxW

namespace Config

/-- OPEN (R10, D23). -/
opaque jDelay : Nat
/-- OPEN (R10, D23). -/
opaque jPoll : Nat
/-- OPEN (R10, D16). -/
opaque lambdaMax : Nat
/-- OPEN (R10, D34). -/
opaque wEdgeMin : Nat
/-- OPEN (R10, D28). -/
opaque maxLen : Nat
/-- OPEN (R10, D28). -/
opaque idxW : Nat
/-- `I.IE` at reset: the host platform's (R66). -/
opaque ieResetI : Bool
/-- `T.IE` at reset: the host platform's (R66). -/
opaque ieResetT : Bool
/-- `I.OLAT` at power-on: unspecified, any value (R66, 93 U1). -/
opaque resetOlatI : Bool
/-- `T.OLAT` at power-on: unspecified, any value (R66, 93 U1). -/
opaque resetOlatT : Bool
/-- The n-th draw of ENV that the tape of State does not hold: no law governs it (R266). -/
opaque freeDraw : Nat → Nat

/-- The nominal time values of R10 over given OPEN parameters; NOISE at R10's default. -/
def nominalWith (jDelay jPoll lambdaMax wEdgeMin maxLen idxW : Nat) (ieResetI ieResetT : Bool) : Params where
  tReq := 1000
  tSettle := 24000
  tSync := 48000
  tHalf := 24000
  tCell := 48000
  tFudge := 2000
  tRxBit := 50000
  tDrain := 50000
  tRel := 1000
  jDelay := jDelay
  jPoll := jPoll
  lambdaMax := lambdaMax
  wEdgeMin := wEdgeMin
  noise := .none
  maxLen := maxLen
  idxW := idxW
  ieResetI := ieResetI
  ieResetT := ieResetT

/-- The configuration at power-on: nominal times, every OPEN parameter left open (R10). -/
def nominal : Params :=
  nominalWith Config.jDelay Config.jPoll Config.lambdaMax Config.wEdgeMin Config.maxLen Config.idxW
    Config.ieResetI Config.ieResetT

end Config

end Sys2Proof
end

