-- ==== Sys2Proof/Machine/State.lean ====
section
/-! DEFINITION. The state of the link: two instances of the block, the clock, the run's trace, the configuration and
ENV's choices (10_state.md; 41_timing.md R260; 48_link.md R510), and the state after reset (10_state.md R66). -/

namespace Sys2Proof.Machine

/-- Why the machine stops. -/
inductive Fault where
  /-- Raised by `step` when no agent is ready, sleeping or polling, no delivery is due and no host has anything left to
  issue: the run is quiescent and ends (41_timing.md R261 step 4, 70_reset_and_hazards.md R630). Safe: the spec's run
  takes no further step either. -/
  | quiescent
deriving DecidableEq, Repr

/-- Why the model has no meaning for an operation. -/
inductive Refusal where
  /-- Raised only by an arm of `exec` without a meaning; safe. No arm of this model answers it. -/
  | notModelled (mnemonic : String)
deriving DecidableEq, Repr

/-- The two instances, named by role (R12, R569). -/
inductive Side where
  | I
  | T
deriving DecidableEq, Repr

/-- `DIR` (R50): 0 is input (sensed), 1 is output (driven). -/
inductive Dir where
  | input
  | output
deriving DecidableEq, Repr

/-- The resolved line (R51, R230, R231). -/
inductive Line where
  | high
  | low
  | contended
deriving DecidableEq, Repr

/-- `ROLE` (R57): NONE (0), INITIATOR (1), TARGET (2); code 3 is never held. -/
inductive Role where
  | unset
  | initiator
  | target
deriving DecidableEq, Repr

/-- A transaction outcome (R15, R179). -/
inductive TxnOutcome where
  | completed
  | noResponse
  | dataError
deriving DecidableEq, Repr

/-- `ST`, the engine state (R60 to R62). -/
inductive EngineState where
  | uninit
  | iIdle
  | iReq
  | iPres
  | iSync
  | iRecv (i : Nat)
  | iRecvCk
  | iCmp
  | iExit (o : TxnOutcome)
  | tArmed
  | tDisarm
  | tAck
  | tSend (i : Nat)
  | tSendCk
  | tDrain
  | tRearm
deriving DecidableEq, Repr

/-- The fault codes of R555. -/
inductive FaultCode where
  | lineContention
  | useBeforeInit
  | reinit
  | noDescriptor
  | roleViolation
  | illegalOp
  | badOperand
  | uninitRead
  | badIndex
deriving DecidableEq, Repr

/-- One record of the observation trace (R553). -/
structure TraceRecord where
  side : Side
  code : FaultCode
  opcode : Byte
  time : Nat
deriving DecidableEq, Repr

/-- The contents of one buffer: cells keyed by the byte index (R120), in one canonical form (`Memory.wf`). -/
abbrev Memory := List Host.Cell

/-- A buffer in the host controller's memory: its fixed length and its contents (R120, R125). -/
structure Buffer where
  len : Nat
  mem : Memory
deriving DecidableEq, Repr

/-- A transaction descriptor (R15, R120): which buffers of its controller's memory it names. The block holds them by
reference and copies none. Two descriptors may name one buffer, and so may the `i2t` and the `t2i` of one: there TXN's
MemWrite changes the bytes that `i2t` names too, though no operation writes them by that name (R123). DESIGN CHOICE, log
entry 16. -/
structure Descriptor where
  i2t : Nat
  t2i : Nat
deriving DecidableEq, Repr

/-- The descriptor table (R58). -/
abbrev Table := List Descriptor

/-- One zero-time step of a sequence in progress: an operation, or a line of the engines' and composites' pseudocode
that is no operation of its own (R323, R412, R462). -/
inductive Micro where
  /-- Run an operation of R183. -/
  | op (i : Instr)
  /-- `s.ST <- st`. -/
  | setSt (st : EngineState)
  /-- `s.ACC <- 0x00` (R323). -/
  | accClear
  /-- `s.RES <- s.ACC` (R323). -/
  | accToRes
  /-- `s.IDX <- 0`. -/
  | idxClear
  /-- `s.IDX <- s.IDX + 1`. -/
  | idxNext
  /-- `if I.RES = 0x01: o <- NoResponse; goto EXIT` (R412). -/
  | presence
  /-- The head of TXN's loop, `while I.IDX < N` (R412). -/
  | recvLoop
  /-- `MemWrite(buf, I.IDX, 1, I.RES)` (R412). -/
  | storeRes
  /-- `if I.MATCH = 1: o <- Completed else: o <- DataError` (R412). -/
  | decideOutcome
  /-- `I.OUTC <- code(o)` (R412). -/
  | setOutcome (o : TxnOutcome)
  /-- The second part of INITT: arm the detector, take the role (R460). -/
  | armTarget
  /-- The head of TGTISR's loop, `while T.IDX < N` (R462). -/
  | sendLoop
  /-- `v <- MemRead(buf, T.IDX, 1)`, the value its WRBYTE and CKADD use (R462). -/
  | fetchByte
  /-- `WRBYTE T.CK` (R462). -/
  | sendCk
  /-- The return from the handler, one atomic step (R387). -/
  | handlerReturn
deriving DecidableEq, Repr

/-- The status of an agent (R260). -/
inductive Status where
  | idle
  | ready
  | sleeping (wake : Nat)
  | polling (next : Nat)
  | halted
deriving DecidableEq, Repr

/-- An execution context of a controller (R564): its agent's status, the zero-time steps it has still to take, and the
opcode of the operation in progress (R553). -/
structure Context where
  status : Status
  code : List Micro
  opcode : Byte
deriving DecidableEq, Repr

/-- Which of a controller's two contexts (R564). -/
inductive ContextKind where
  | ordinary
  | interrupt
deriving DecidableEq, Repr

/-- A context of the link. -/
structure ContextId where
  side : Side
  kind : ContextKind
deriving DecidableEq, Repr

/-- What a host does (R629): a sequence of operation words, or the write of one byte of its t2i buffer. -/
inductive HostMove where
  | words (bytes : List Byte)
  | store (k : Nat) (v : Byte)
deriving DecidableEq, Repr

/-- A host move and the instant from which the host makes it (R260: "at instants they choose"). -/
structure HostItem where
  time : Nat
  move : HostMove
deriving DecidableEq, Repr

/-- One instance of the block on its controller (10_state.md). A register that is `none` is unwritten (R56). -/
structure Inst where
  dir : Dir
  olat : Bool
  edgeEn : Bool
  edgePend : Bool
  ie : Bool
  ieSaved : Option Bool
  inIsr : Bool
  acc : Option Byte
  res : Option Byte
  sum : Option Byte
  ck : Option Byte
  matchFlag : Option Bool
  idx : Option Nat
  outc : Option Byte
  role : Role
  table : Option Table
  st : EngineState
  /-- A set: strictly rising codes. -/
  faults : List FaultCode
  ordinary : Context
  interrupt : Context
  /-- The model's own: when the edge behind `edgePend` fell, while its pulse may still prove too short (R380). -/
  edgeFall : Option Nat
  /-- The model's own: the instant ENV chose for the delivery of the pending edge (R386). -/
  deliverAt : Option Nat
  /-- The buffers in this controller's memory, numbered from 0; the tables name them (R120). -/
  buffers : List Buffer
  /-- The table the host passes to INITI or INITT, an argument of the operation (R410, R460). -/
  argTable : Table
  /-- What the host will do (R629). -/
  script : List HostItem
  /-- The instants at which this controller is reset from outside (R612). -/
  resets : List Nat
deriving DecidableEq, Repr

/-- ENV's draws (R266): the ones chosen in advance, first the next, and the count of draws taken so far. -/
structure Env where
  tape : List Nat
  count : Nat
deriving DecidableEq, Repr

/-- The link (R510). -/
structure State where
  instI : Inst
  instT : Inst
  /-- `NOW` (R65). -/
  now : Nat
  /-- The observation trace (R553), oldest record first. -/
  trace : List TraceRecord
  /-- The configuration (R10). -/
  params : Params
  env : Env
  /-- The context whose step it is: the issuer of the operation that `exec` runs. -/
  cur : ContextId
deriving DecidableEq, Repr

/-- A context with no sequence running. -/
def Context.idle : Context := { status := .idle, code := [], opcode := 0 }

/-- An instance at power-on reset (R66, R610), with the values the spec leaves to any value (`OLAT`) or to the host
platform (`IE`) as arguments. -/
def Inst.reset (olat ie : Bool) : Inst where
  dir := .input
  olat := olat
  edgeEn := false
  edgePend := false
  ie := ie
  ieSaved := none
  inIsr := false
  acc := none
  res := none
  sum := none
  ck := none
  matchFlag := none
  idx := none
  outc := none
  role := .unset
  table := none
  st := .uninit
  faults := []
  ordinary := Context.idle
  interrupt := Context.idle
  edgeFall := none
  deliverAt := none
  buffers := []
  argTable := []
  script := []
  resets := []

/-- The link at power-on (R66, R610): both instances at reset, `NOW = 0`, no agent running. -/
def State.reset : State where
  instI := Inst.reset Config.resetOlatI Config.nominal.ieResetI
  instT := Inst.reset Config.resetOlatT Config.nominal.ieResetT
  now := 0
  trace := []
  params := Config.nominal
  env := { tape := [], count := 0 }
  cur := { side := .I, kind := .ordinary }

end Sys2Proof.Machine
end

