-- ==== Sys2Proof/Machine/Ops.lean ====
section
/-! DEFINITION. The operations every meaning is written over: the buffers' memory, instances and contexts, ENV's
draws, the fault record, the line and the edge detector, samples, and entry into and return from the handler. -/

namespace Sys2Proof.Machine

/-! ### Memory: the byte buffers (20_memory.md) -/

/-- What a byte no cell lists reads as: 0 (DESIGN CHOICE, log entry 16). -/
def Memory.blank : Byte := 0

/-- The byte at index `a`. -/
def Memory.read : Memory → Nat → Byte
  | [], _ => Memory.blank
  | (k, v) :: m, a => if k = a then v else Memory.read m a

/-- One cell put in front of a memory, left out where it holds what an unlisted byte reads as. -/
def Memory.cons (a : Nat) (v : Byte) (m : Memory) : Memory :=
  if v = Memory.blank then m else (a, v) :: m

/-- Write one byte, keeping the canonical form. -/
def Memory.write : Memory → Nat → Byte → Memory
  | [], a, v => Memory.cons a v []
  | (k, w) :: m, a, v =>
    if a < k then Memory.cons a v ((k, w) :: m)
    else if a = k then Memory.cons a v m
    else (k, w) :: Memory.write m a v

/-- Every address of the memory lies above `a`. -/
def Memory.above (a : Nat) (m : Memory) : Bool := m.all fun c => decide (a < c.1)

/-- The canonical form: addresses strictly rising, no cell that an unlisted byte would equal. -/
def Memory.wf : Memory → Bool
  | [] => true
  | (k, v) :: m => decide (v ≠ Memory.blank) && Memory.above k m && Memory.wf m

/-- A buffer in canonical form, listing nothing at or past its length. -/
def Buffer.wf (b : Buffer) : Bool := Memory.wf b.mem && b.mem.all fun c => decide (c.1 < b.len)

/-- `MemRead(buf, i, 1)` where the index is in range (R121). -/
def Buffer.read (b : Buffer) (i : Nat) : Option Byte := if i < b.len then some (b.mem.read i) else none

/-- `MemWrite(buf, i, 1, v)` where the index is in range (R121). -/
def Buffer.write (b : Buffer) (i : Nat) (v : Byte) : Option Buffer :=
  if i < b.len then some { b with mem := b.mem.write i v } else none

/-- The bytes of a buffer in ascending index order (R127). -/
def Buffer.bytes (b : Buffer) : List Byte := (List.range b.len).map b.mem.read

/-- Both buffers that the descriptor names are among `n` buffers. They may be one and the same: R120 and R15 do not say
(DESIGN CHOICE, log entry 16). -/
def Descriptor.within (n : Nat) (e : Descriptor) : Bool := decide (e.i2t < n) && decide (e.t2i < n)

/-- Every descriptor of the table names buffers among `n`. -/
def Table.within (n : Nat) (t : Table) : Bool := t.all (Descriptor.within n)

/-- A buffer an instance supports: in canonical form, no longer than `MAX_LEN` (R125). -/
def Buffer.legal (p : Params) (b : Buffer) : Bool := b.wf && decide (b.len ≤ p.maxLen)

/-- `s.DESC`: entry 0 of the table (R58, R122). -/
def Inst.desc (i : Inst) : Option Descriptor := i.table.bind List.head?

/-- The buffer with this number; one that is not there is empty (log entry 16). -/
def Inst.buffer (i : Inst) (b : Nat) : Buffer := i.buffers.getD b { len := 0, mem := [] }

/-- The controller's memory with the buffer of this number replaced. -/
def Inst.setBuffer (i : Inst) (b : Nat) (x : Buffer) : Inst := { i with buffers := i.buffers.set b x }

/-- One byte of the controller's memory: index `k` of buffer `b`. Nothing where there is none (R120). -/
def Inst.byteAt (i : Inst) (b k : Nat) : Option Byte := (i.buffer b).read k

/-! ### Instances and contexts -/

def Side.other : Side → Side
  | .I => .T
  | .T => .I

def State.inst (s : State) : Side → Inst
  | .I => s.instI
  | .T => s.instT

def State.setInst (s : State) (d : Side) (i : Inst) : State :=
  match d with
  | .I => { s with instI := i }
  | .T => { s with instT := i }

def Inst.ctx (i : Inst) : ContextKind → Context
  | .ordinary => i.ordinary
  | .interrupt => i.interrupt

def Inst.setCtx (i : Inst) (k : ContextKind) (x : Context) : Inst :=
  match k with
  | .ordinary => { i with ordinary := x }
  | .interrupt => { i with interrupt := x }

def State.ctx (s : State) (c : ContextId) : Context := (s.inst c.side).ctx c.kind

def State.setCtx (s : State) (c : ContextId) (x : Context) : State :=
  s.setInst c.side ((s.inst c.side).setCtx c.kind x)

/-- The instance whose operation runs. -/
def State.self (s : State) : Inst := s.inst s.cur.side

/-- Write the fields of the instance whose operation runs. -/
def State.setSelf (s : State) (i : Inst) : State := s.setInst s.cur.side i

/-- Set the status of the agent whose operation runs (R260). -/
def State.setStatus (s : State) (st : Status) : State :=
  s.setCtx s.cur { s.ctx s.cur with status := st }

/-- Put zero-time steps before those the running sequence has still to take: the expansion of a composite operation
(R187) or the body of a loop. -/
def State.load (s : State) (ms : List Micro) : State :=
  s.setCtx s.cur { s.ctx s.cur with status := .ready, code := ms ++ (s.ctx s.cur).code }

/-- Go on with these zero-time steps instead of those the running sequence had still to take (TXN's `goto EXIT`,
R412). -/
def State.goto (s : State) (ms : List Micro) : State :=
  s.setCtx s.cur { s.ctx s.cur with status := .ready, code := ms }

/-! ### ENV's draws (R266) -/

/-- The next draw: from the tape, else a free value. -/
def State.drawn (s : State) : Nat :=
  match s.env.tape with
  | v :: _ => v
  | [] => Config.freeDraw s.env.count

/-- The state after one draw. -/
def State.afterDraw (s : State) : State :=
  { s with env := { tape := s.env.tape.tail, count := s.env.count + 1 } }

/-- A draw in `[0, bound]`. -/
def drawUpTo (bound n : Nat) : Nat := if bound = 0 then 0 else n % (bound + 1)

/-- A draw in {0, 1}. -/
def drawBit (n : Nat) : Bool := n % 2 == 1

/-! ### The fault record (60_exceptions.md) -/

/-- The number of a fault code (R555). -/
def FaultCode.number : FaultCode → Nat
  | .lineContention => 1
  | .useBeforeInit => 2
  | .reinit => 3
  | .noDescriptor => 4
  | .roleViolation => 5
  | .illegalOp => 6
  | .badOperand => 7
  | .uninitRead => 8
  | .badIndex => 9

/-- `FAULTS ∪ {code}`, kept strictly rising so that equal sets are equal lists. -/
def insertFault (c : FaultCode) : List FaultCode → List FaultCode
  | [] => [c]
  | d :: ds =>
    if c.number < d.number then c :: d :: ds
    else if c = d then d :: ds
    else d :: insertFault c ds

/-- The set is written with strictly rising codes. -/
def faultsSorted : List FaultCode → Bool
  | [] => true
  | c :: cs => (cs.all fun d => decide (c.number < d.number)) && faultsSorted cs

/-- The opcode of the operation in progress, which a fault record names (R553; DEDUCED, log entry 15). -/
def State.opcode (s : State) : Byte := (s.ctx s.cur).opcode

/-- `raise Fault(code)` on the instance whose operation runs (R556): record it and go on. -/
def State.raiseFault (s : State) (code : FaultCode) : State :=
  { s.setSelf { s.self with faults := insertFault code s.self.faults } with
    trace := s.trace ++ [{ side := s.cur.side, code := code, opcode := s.opcode, time := s.now }] }

/-- The agent whose operation runs halts: it takes no further step (R557). -/
def State.halt (s : State) : State :=
  s.setCtx s.cur { s.ctx s.cur with status := .halted, code := [] }

/-- `refuse Fault(code)` (R557): record it, change nothing else, halt the issuing agent. -/
def State.refuse (s : State) (code : FaultCode) : State := (s.raiseFault code).halt

/-! ### The line and the edge detector (40_line_port.md, 45_control.md) -/

/-- Line resolution (R230, R231, R232). -/
def resolve (i t : Inst) : Line :=
  match i.dir, t.dir with
  | .output, .output => if i.olat = t.olat then (if i.olat then .high else .low) else .contended
  | .output, .input => if i.olat then .high else .low
  | .input, .output => if t.olat then .high else .low
  | .input, .input => .high

/-- `LINE` at `NOW` (R51). -/
def State.line (s : State) : Line := resolve s.instI s.instT

/-- A change of the line that may or may not count as a falling edge: into or out of contention (R231). -/
def unclearEdge (before after : Line) : Bool :=
  before ≠ after && (before = .contended || after = .contended)

/-- The low pulse on the line ended: where the edge it made is latched only provisionally and the pulse lasted less
than `W_EDGE_MIN`, a draw says whether the latch keeps it (R380; log entry 11). -/
def State.endPulse (s : State) (d : Side) : State :=
  match (s.inst d).edgeFall with
  | none => s
  | some t0 =>
    if s.now < t0 + s.params.wEdgeMin then
      s.afterDraw.setInst d { s.inst d with edgePend := (s.inst d).edgePend && drawBit s.drawn, edgeFall := none }
    else s.setInst d { s.inst d with edgeFall := none }

/-- The detector latches an edge; a pending edge stays as it is (R380). -/
def State.latchEdge (s : State) (d : Side) (fall : Option Nat) : State :=
  if (s.inst d).edgePend then s
  else s.setInst d { s.inst d with edgePend := true, edgeFall := fall }

/-- What the detector of instance `d` does when the line goes from `before` to `after` (R380, R231). -/
def State.detect (s : State) (d : Side) (before after : Line) : State :=
  if (s.inst d).edgeEn = false then s
  else
    match before, after with
    | .high, .low => s.latchEdge d (some s.now)
    | .low, .high => s.endPulse d
    | .low, .contended =>
      let s1 := s.endPulse d
      if drawBit s1.drawn then s1.afterDraw.latchEdge d none else s1.afterDraw
    | _, _ =>
      if unclearEdge before after then
        if drawBit s.drawn then s.afterDraw.latchEdge d none else s.afterDraw
      else s

/-- Both detectors see every change of the line, whichever port made it (R380). -/
def State.detectBoth (s : State) (before after : Line) : State :=
  (s.detect .I before after).detect .T before after

/-- A port write of the instance whose operation runs: the new direction and latch, LINE_CONTENTION where this write
first makes the line contended (R231, R556), and the edges it makes (R380). -/
def State.writePort (s : State) (dir : Dir) (olat : Bool) : State :=
  let before := s.line
  let s1 := s.setSelf { s.self with dir := dir, olat := olat }
  let after := s1.line
  let s2 := if before ≠ .contended ∧ after = .contended then s1.raiseFault .lineContention else s1
  s2.detectBoth before after

/-- `s.DIR <- dir`. -/
def State.writeDir (s : State) (dir : Dir) : State := s.writePort dir s.self.olat

/-- `s.OLAT <- olat`. -/
def State.writeOlat (s : State) (olat : Bool) : State := s.writePort s.self.dir olat

/-- Does `sample()` take a draw: a contended line, or noise (R237). -/
def State.sampleDraws (s : State) : Bool :=
  decide (s.line = .contended) || decide (s.params.noise = .arbitrary)

/-- The bit `sample()` returns (R237, R268). -/
def State.sample (s : State) : Bool :=
  if s.sampleDraws then drawBit s.drawn else decide (s.line = .high)

/-- The state after `sample()`: no effect but the draw it took (R237). -/
def State.afterSample (s : State) : State := if s.sampleDraws then s.afterDraw else s

/-- The bit a poll of WAITH reads; noise does not apply (R264). -/
def State.poll (s : State) : Bool :=
  if s.line = .contended then drawBit s.drawn else decide (s.line = .high)

/-- The state after a poll: no effect but the draw it took. -/
def State.afterPoll (s : State) : State := if s.line = .contended then s.afterDraw else s

/-! ### Interrupt entry and return (45_control.md) -/

/-- The conditions of delivery (R386). -/
def Inst.deliverable (i : Inst) : Bool :=
  decide (i.role = .target) && i.edgePend && !i.inIsr && decide (i.interrupt.status = .idle) && i.ie

/-- Interrupt entry, one atomic step (R386): TGT becomes ready at the first step of TGTISR. -/
def Inst.enterHandler (i : Inst) : Inst :=
  { i with
    edgePend := false
    edgeFall := none
    deliverAt := none
    inIsr := true
    ie := false
    interrupt := { status := .ready, code := [.op .tgtisr], opcode := 0x63 } }

/-- The interrupted host goes on (R561): a poll is taken at once; a delay keeps its wake time. -/
def Context.resume (x : Context) : Context :=
  match x.status with
  | .polling _ => { x with status := .ready }
  | _ => x

/-- Return from the handler, one atomic step (R387). -/
def Inst.leaveHandler (i : Inst) : Inst :=
  { i with
    inIsr := false
    ie := true
    interrupt := { i.interrupt with status := .idle, code := [] }
    ordinary := i.ordinary.resume }

/-! ### Codes -/

/-- The outcome code (R179). -/
def TxnOutcome.code : TxnOutcome → Byte
  | .completed => 0
  | .noResponse => 1
  | .dataError => 2

end Sys2Proof.Machine
end

