-- ==== Sys2Proof/Machine/Flags.lean ====
section
/-! DEFINITION. The arithmetic and the flags: the running sum, the fold, the comparison, the accumulator's shift
(44_checksum.md, 42_framer.md), and the flag effects of the edge and interrupt control (45_control.md). -/

namespace Sys2Proof.Machine

/-- `(sum + v) mod 256` (R351): the carry is discarded and no flag exists. -/
def sumAdd (sum v : Byte) : Byte := sum + v

/-- The fold constant `FOLD` (R10). -/
def foldConst : Byte := 0x07

/-- `sum ^ 0x07` (R353). -/
def fold (sum : Byte) : Byte := sum ^^^ foldConst

/-- MATCH: all 8 bits equal (R354). -/
def matches8 (ck res : Byte) : Bool := decide (ck = res)

/-- `zext_8` of a bit (R238). -/
def zext8 (b : Bool) : Byte := if b then 1 else 0

/-- `((acc << 1) | b)[7:0]` (R321). -/
def shiftIn (acc : Byte) (b : Bool) : Byte := (acc <<< 1) ||| zext8 b

/-- `IDX + 1` in a register `IDX_W` bits wide (R54, R412; log entry 19). -/
def idxSucc (p : Params) (i : Nat) : Nat := (i + 1) % 2 ^ p.idxW

/-- EDGEEN's flags (R381): edges before it are discarded. -/
def Inst.enableEdges (i : Inst) : Inst := { i with edgeEn := true, edgePend := false, edgeFall := none }

/-- EDGEDIS's flags (R382): a pending edge is discarded. -/
def Inst.disableEdges (i : Inst) : Inst := { i with edgeEn := false, edgePend := false, edgeFall := none }

/-- IRQOFF's flags (R383). -/
def Inst.maskIrq (i : Inst) : Inst := { i with ieSaved := some i.ie, ie := false }

/-- IRQON's flag (R384): the saved value comes back. -/
def Inst.restoreIrq (i : Inst) (saved : Bool) : Inst := { i with ie := saved }

end Sys2Proof.Machine
end

