-- ==== Sys2Proof/Machine/Operands.lean ====
section
/-! DEFINITION. The operand forms: the timing selector and the parameters it names (30_encoding.md R182), immediate
bytes and bits (R181), the reads of registers that may be unwritten (10_state.md R56), and the bytes of the selected
descriptor's buffer (20_memory.md R121). -/

namespace Sys2Proof.Machine

/-- The value of a timing selector (R182); 10 to 15 are reserved. -/
def param (p : Params) (sel : BitVec 4) : Option Nat :=
  match sel.toNat with
  | 0 => some p.tReq
  | 1 => some p.tSettle
  | 2 => some p.tSync
  | 3 => some p.tHalf
  | 4 => some p.tCell
  | 5 => some p.tFudge
  | 6 => some p.tBit
  | 7 => some p.tRxBit
  | 8 => some p.tDrain
  | 9 => some p.tRel
  | _ => none

/-- `delay(T_REQ)` in the pseudocode is DELAY with that parameter (R263); so for the nine below. -/
def delayReq : Micro := .op (.delay 0)
def delaySettle : Micro := .op (.delay 1)
def delaySync : Micro := .op (.delay 2)
def delayHalf : Micro := .op (.delay 3)
def delayCell : Micro := .op (.delay 4)
def delayFudge : Micro := .op (.delay 5)
def delayRxBit : Micro := .op (.delay 7)
def delayDrain : Micro := .op (.delay 8)
def delayRel : Micro := .op (.delay 9)

/-- DRVH or DRVL, the latch write of a bit (R320). -/
def driveOp (b : Bool) : Micro := .op (if b then .drvh else .drvl)

/-- The bits of a byte, MSB first (R126, R172). -/
def bitsMsbFirst (v : Byte) : List Bool :=
  [v.getLsbD 7, v.getLsbD 6, v.getLsbD 5, v.getLsbD 4, v.getLsbD 3, v.getLsbD 2, v.getLsbD 1, v.getLsbD 0]

/-- Go on with a register's value, or refuse UNINIT_READ where nothing has written it (R56). -/
def State.withReg {α : Type} (s : State) (r : Option α) (k : α → State) : State :=
  match r with
  | some v => k v
  | none => s.refuse .uninitRead

/-- Go on with the selected descriptor, or refuse NO_DESCRIPTOR where there is none (R122). -/
def State.withDesc (s : State) (k : Descriptor → State) : State :=
  match s.self.desc with
  | some d => k d
  | none => s.refuse .noDescriptor

/-- Go on with the length of `DESC.t2i_buf` (R412, R462). -/
def State.withLen (s : State) (k : Nat → State) : State := s.withDesc fun e => k (s.self.buffer e.t2i).len

/-- `MemRead(DESC.t2i_buf, i, 1)`; an index at or past the length is refused (R121). -/
def State.memRead (s : State) (i : Nat) (k : Byte → State) : State :=
  s.withDesc fun e =>
    match (s.self.buffer e.t2i).read i with
    | some v => k v
    | none => s.refuse .badIndex

/-- `MemWrite(DESC.t2i_buf, i, 1, v)`; an index at or past the length is refused (R121). -/
def State.memWrite (s : State) (i : Nat) (v : Byte) : State :=
  s.withDesc fun e =>
    match (s.self.buffer e.t2i).write i v with
    | some b => s.setSelf (s.self.setBuffer e.t2i b)
    | none => s.refuse .badIndex

end Sys2Proof.Machine
end

