-- ==== Sys2Proof/Machine/Checksum.lean ====
section
/-! DEFINITION. The checksum operations (44_checksum.md R350 to R354). -/

namespace Sys2Proof.Machine

/-- CKCLR (R350): `s.SUM <- 0x00`. -/
def execCkclr (s : State) : Host.Outcome State Fault Refusal := .next (s.setSelf { s.self with sum := some 0 })

/-- CKADD v (R351): `s.SUM <- (s.SUM + v) mod 256`. -/
def execCkadd (v : Byte) (s : State) : Host.Outcome State Fault Refusal :=
  .next (s.withReg s.self.sum fun x => s.setSelf { s.self with sum := some (sumAdd x v) })

/-- CKADDR (R352): `s.SUM <- (s.SUM + s.RES) mod 256`. -/
def execCkaddr (s : State) : Host.Outcome State Fault Refusal :=
  .next (s.withReg s.self.sum fun x => s.withReg s.self.res fun v =>
    s.setSelf { s.self with sum := some (sumAdd x v) })

/-- CKFOLD (R353): `s.CK <- s.SUM ^ 0x07`. -/
def execCkfold (s : State) : Host.Outcome State Fault Refusal :=
  .next (s.withReg s.self.sum fun x => s.setSelf { s.self with ck := some (fold x) })

/-- CKCMP (R354): `s.MATCH <- (s.CK = s.RES)`. -/
def execCkcmp (s : State) : Host.Outcome State Fault Refusal :=
  .next (s.withReg s.self.ck fun c => s.withReg s.self.res fun v =>
    s.setSelf { s.self with matchFlag := some (matches8 c v) })

end Sys2Proof.Machine
end

