-- ==== Sys2Proof/Machine/Control.lean ====
section
/-! DEFINITION. Edge detection and interrupt mask operations (45_control.md R381 to R384). -/

namespace Sys2Proof.Machine

/-- EDGEEN (R381). -/
def execEdgeen (s : State) : Host.Outcome State Fault Refusal := .next (s.setSelf s.self.enableEdges)

/-- EDGEDIS (R382). -/
def execEdgedis (s : State) : Host.Outcome State Fault Refusal := .next (s.setSelf s.self.disableEdges)

/-- IRQOFF (R383). -/
def execIrqoff (s : State) : Host.Outcome State Fault Refusal := .next (s.setSelf s.self.maskIrq)

/-- IRQON (R384). -/
def execIrqon (s : State) : Host.Outcome State Fault Refusal :=
  .next (s.withReg s.self.ieSaved fun v => s.setSelf (s.self.restoreIrq v))

end Sys2Proof.Machine
end

