-- ==== Sys2Proof/Machine/Timing.lean ====
section
/-! DEFINITION. The timing operations (41_timing.md R262 to R265). -/

namespace Sys2Proof.Machine

/-- The issuing agent sleeps for `d` and a draw in `[0, J_DELAY]` (R262). -/
def State.sleep (s : State) (d : Nat) : State :=
  s.afterDraw.setStatus (.sleeping (s.now + d + drawUpTo s.params.jDelay s.drawn))

/-- DELAY sel (R262); a reserved selector is a bad operand (R184). -/
def execDelay (sel : BitVec 4) (s : State) : Host.Outcome State Fault Refusal :=
  match param s.params sel with
  | some d => .next (s.sleep d)
  | none => .next (s.refuse .badOperand)

/-- The poll read 0: poll again after a gap drawn in `[1, J_POLL]` (R264). -/
def State.pollAgain (s : State) : State :=
  s.afterDraw.setCtx s.cur
    { s.ctx s.cur with
      status := .polling (s.now + 1 + drawUpTo (s.params.jPoll - 1) s.drawn)
      code := .op .waith :: (s.ctx s.cur).code }

/-- WAITH (R264): return on a poll that reads 1, else poll again later; no deadline (R265). -/
def execWaith (s : State) : Host.Outcome State Fault Refusal :=
  if s.poll then .next s.afterPoll else .next s.afterPoll.pollAgain

end Sys2Proof.Machine
end

