-- ==== Sys2Proof/Machine/Framer.lean ====
section
/-! DEFINITION. The byte framer (42_framer.md R320 to R323). A composite operation is its expansion (30_encoding.md
R187): the meaning loads the expansion's zero-time steps, which the issuing agent then takes one by one, so that the
partner's steps can come between them (R14). -/

namespace Sys2Proof.Machine

/-- The expansion of WRBIT b (R320). -/
def wrbitCode (b : Bool) : List Micro := [driveOp b, delayCell, delayFudge]

/-- The expansion of WRBYTE v (R322): latch `v[7]` first, then output, then the eight cells, MSB first. -/
def wrbyteCode (v : Byte) : List Micro :=
  driveOp (v.getLsbD 7) :: .op .setout :: (bitsMsbFirst v).map fun b => .op (.wrbit b)

/-- The expansion of RDBYTE (R323). -/
def rdbyteCode : List Micro :=
  .op .setin :: .accClear :: (List.replicate 8 (.op .rdbit) ++ [.accToRes])

/-- WRBIT b (R320). -/
def execWrbit (b : Bool) (s : State) : Host.Outcome State Fault Refusal := .next (s.load (wrbitCode b))

/-- RDBIT (R321): the sample goes into ACC, then the agent waits `T_RXBIT`. ACC is read after the sample is taken, so
an unwritten ACC is refused with the sample's draw taken (R558: "at the step that reads them"). -/
def execRdbit (s : State) : Host.Outcome State Fault Refusal :=
  .next (s.afterSample.withReg s.self.acc fun a =>
    (s.afterSample.setSelf { s.self with acc := some (shiftIn a s.sample) }).load [delayRxBit])

/-- WRBYTE v (R322). -/
def execWrbyte (v : Byte) (s : State) : Host.Outcome State Fault Refusal := .next (s.load (wrbyteCode v))

/-- RDBYTE (R323). -/
def execRdbyte (s : State) : Host.Outcome State Fault Refusal := .next (s.load rdbyteCode)

end Sys2Proof.Machine
end

