-- ==== Sys2Proof/Machine/Initiator.lean ====
section
/-! DEFINITION. The initiator engine (46_initiator.md): INITI (R410), TXN (R411) and the TXN sequence (R412), line by
line in the order of the rule's pseudocode. -/

namespace Sys2Proof.Machine

/-- INITI (R410), in zero time. Its steps are one step of the model, since no other agent's step between two of them
could make a difference (log entry 6). IE_SAVED stays as it was: R410 writes nothing to it (log entry 27). -/
def execIniti (s : State) : Host.Outcome State Fault Refusal :=
  if s.self.role ≠ .unset then .next (s.refuse .reinit)
  else
    let s1 := s.setSelf { s.self.disableEdges with table := some s.self.argTable }
    let s2 := (s1.writeOlat true).writeDir .output
    .next (s2.setSelf { s2.self with role := .initiator, st := .iIdle })

/-- The exit of TXN with outcome `o`, on every path (R412 step 6). -/
def txnExit (o : TxnOutcome) : List Micro :=
  [.setSt (.iExit o), .op .drvh, .op .setout, .setOutcome o, .op .irqon, .setSt .iIdle]

/-- TXN up to the presence test (R412 steps 1 and 2). -/
def txnRequest : List Micro :=
  [.op .irqoff, .setSt .iReq, .op .setout, .op .drvl, delayReq, .op .setin, delaySettle,
   .setSt .iPres, .op .rdlvl, .presence]

/-- TXN from the acknowledge to the loop (R412 step 3). -/
def txnSync : List Micro := [.setSt .iSync, .op .rsync, .op .ckclr, .idxClear, .recvLoop]

/-- The body of TXN's loop for index `i` (R412 step 3). -/
def recvBody (i : Nat) : List Micro :=
  [.setSt (.iRecv i), .op .rdbyte, .storeRes, .op .ckaddr, .op .rsync, .idxNext, .recvLoop]

/-- TXN after its loop: the checksum byte and the comparison (R412 steps 4 and 5). -/
def txnCheck : List Micro :=
  [.setSt .iRecvCk, .op .rdbyte, .op .rsync, .setSt .iCmp, .op .ckfold, .op .ckcmp, .decideOutcome]

/-- The whole TXN sequence (R412); `presence` and `decideOutcome` go on with `txnExit`. -/
def txnCode : List Micro := txnRequest ++ txnSync ++ txnCheck

/-- TXN (R411): the checks in the rule's order, before any effect, then the sequence. -/
def execTxn (s : State) : Host.Outcome State Fault Refusal :=
  match s.self.role with
  | .unset => .next (s.refuse .useBeforeInit)
  | .target => .next (s.refuse .roleViolation)
  | .initiator => .next (s.withDesc fun _ => s.load txnCode)

/-- `if I.RES = 0x01: o <- NoResponse; goto EXIT` (R412 step 2). -/
def State.presence (s : State) : State :=
  s.withReg s.self.res fun v => if v = 0x01 then s.goto (txnExit .noResponse) else s

/-- `while I.IDX < N` (R412 step 3). -/
def State.recvLoop (s : State) : State :=
  s.withReg s.self.idx fun i => s.withLen fun n => if i < n then s.load (recvBody i) else s

/-- `MemWrite(buf, I.IDX, 1, I.RES)` (R412 step 3, R121). -/
def State.storeRes (s : State) : State :=
  s.withReg s.self.idx fun i => s.withReg s.self.res fun v => s.memWrite i v

/-- `if I.MATCH = 1: o <- Completed else: o <- DataError` (R412 step 5), then the exit. -/
def State.decideOutcome (s : State) : State :=
  s.withReg s.self.matchFlag fun m => s.goto (txnExit (if m then .completed else .dataError))

/-- `I.IDX <- I.IDX + 1` (R412), the same line in R462. -/
def State.idxNext (s : State) : State :=
  s.withReg s.self.idx fun i => s.setSelf { s.self with idx := some (idxSucc s.params i) }

end Sys2Proof.Machine
end

