-- ==== Sys2Proof/Machine/LinePort.lean ====
section
/-! DEFINITION. Line port operations (40_line_port.md R233 to R238); each takes zero time. -/

namespace Sys2Proof.Machine

/-- SETOUT (R233): `s.DIR <- 1`. -/
def execSetout (s : State) : Host.Outcome State Fault Refusal := .next (s.writeDir .output)

/-- SETIN (R234): `s.DIR <- 0`; the latch is kept. -/
def execSetin (s : State) : Host.Outcome State Fault Refusal := .next (s.writeDir .input)

/-- DRVH (R235): `s.OLAT <- 1`. -/
def execDrvh (s : State) : Host.Outcome State Fault Refusal := .next (s.writeOlat true)

/-- DRVL (R236): `s.OLAT <- 0`. -/
def execDrvl (s : State) : Host.Outcome State Fault Refusal := .next (s.writeOlat false)

/-- RDLVL (R238): `s.RES <- zext_8(sample())`. -/
def execRdlvl (s : State) : Host.Outcome State Fault Refusal :=
  .next (s.afterSample.setSelf { s.self with res := some (zext8 s.sample) })

end Sys2Proof.Machine
end

