-- ==== Sys2Proof/Machine/Sync.lean ====
section
/-! DEFINITION. The synchronization primitive (43_sync.md R290, R291): both operations are their expansions (R187). -/

namespace Sys2Proof.Machine

/-- The expansion of SSYNC (R290): the latch before the direction. -/
def ssyncCode : List Micro := [.op .drvl, .op .setout, delaySync, .op .drvh, delayRel]

/-- The expansion of RSYNC (R291). -/
def rsyncCode : List Micro := [.op .setin, .op .waith, delayHalf]

/-- SSYNC (R290). -/
def execSsync (s : State) : Host.Outcome State Fault Refusal := .next (s.load ssyncCode)

/-- RSYNC (R291). -/
def execRsync (s : State) : Host.Outcome State Fault Refusal := .next (s.load rsyncCode)

end Sys2Proof.Machine
end

