-- ==== Sys2Proof/Machine/Target.lean ====
section
/-! DEFINITION. The target engine (47_target.md): INITT (R460), TGTISR (R461) and the TGTISR sequence (R462). -/

namespace Sys2Proof.Machine

/-- INITT (R460), in zero time. The port turns to input in one step and the detector is armed in the next, since the
partner's edge may fall between the two (log entry 6). -/
def execInitt (s : State) : Host.Outcome State Fault Refusal :=
  if s.self.role ≠ .unset then .next (s.refuse .reinit)
  else .next ((s.writeDir .input).load [.armTarget])

/-- The second step of INITT (R460): the table, the armed detector, the role. IE_SAVED stays as it was: R460 writes
nothing to it (log entry 27). -/
def Inst.armTarget (i : Inst) : Inst :=
  { i with
    table := some i.argTable
    edgePend := false
    edgeFall := none
    edgeEn := true
    role := .target
    st := .tArmed }

/-- TGTISR up to its loop (R462 steps 1 to 3). -/
def isrHead : List Micro :=
  [.setSt .tDisarm, .op .edgedis, .setSt .tAck, .op .ssync, .op .ckclr, .idxClear, .sendLoop]

/-- The head of the loop's body for index `i` (R462 step 3). -/
def sendBody (i : Nat) : List Micro := [.setSt (.tSend i), .fetchByte]

/-- The rest of the loop's body for the byte `v` (R462 step 3). -/
def sendByteCode (v : Byte) : List Micro :=
  [.op (.wrbyte v), .op .ssync, .op (.ckadd v), .idxNext, .sendLoop]

/-- TGTISR after its loop (R462 steps 4 to 6). -/
def isrTail : List Micro :=
  [.setSt .tSendCk, .op .ckfold, .sendCk, .op .ssync, .setSt .tDrain, delayDrain, .op .setin,
   .setSt .tRearm, .op .edgeen, .setSt .tArmed, .handlerReturn]

/-- The whole TGTISR sequence (R462). -/
def isrCode : List Micro := isrHead ++ isrTail

/-- TGTISR (R461): entered by delivery, in the interrupt context; in a sequence of operations the word is refused
(R184). The table is checked before any other step. -/
def execTgtisr (s : State) : Host.Outcome State Fault Refusal :=
  match s.cur.kind with
  | .ordinary => .next (s.refuse .illegalOp)
  | .interrupt => .next (s.withDesc fun _ => s.load isrCode)

/-- `while T.IDX < N` (R462 step 3). -/
def State.sendLoop (s : State) : State :=
  s.withReg s.self.idx fun i => s.withLen fun n => if i < n then s.load (sendBody i) else s

/-- `v <- MemRead(buf, T.IDX, 1)` (R462 step 3, R121); the lines after it use `v`. -/
def State.fetchByte (s : State) : State :=
  s.withReg s.self.idx fun i => s.memRead i fun v => s.load (sendByteCode v)

/-- `WRBYTE T.CK` (R462 step 4). -/
def State.sendCk (s : State) : State :=
  s.withReg s.self.ck fun c => s.load [.op (.wrbyte c)]

end Sys2Proof.Machine
end

