-- ==== Sys2Proof/Machine/Dispatch.lean ====
section
/-! DEFINITION. The meaning of every operation, one arm per constructor. -/

namespace Sys2Proof.Machine

def exec (i : Instr) (s : State) : Host.Outcome State Fault Refusal :=
  match i with
  | .setout => Sys2Proof.Machine.execSetout s
  | .setin => Sys2Proof.Machine.execSetin s
  | .drvh => Sys2Proof.Machine.execDrvh s
  | .drvl => Sys2Proof.Machine.execDrvl s
  | .rdlvl => Sys2Proof.Machine.execRdlvl s
  | .delay sel => Sys2Proof.Machine.execDelay sel s
  | .waith => Sys2Proof.Machine.execWaith s
  | .wrbit b => Sys2Proof.Machine.execWrbit b s
  | .rdbit => Sys2Proof.Machine.execRdbit s
  | .wrbyte v => Sys2Proof.Machine.execWrbyte v s
  | .rdbyte => Sys2Proof.Machine.execRdbyte s
  | .ssync => Sys2Proof.Machine.execSsync s
  | .rsync => Sys2Proof.Machine.execRsync s
  | .ckclr => Sys2Proof.Machine.execCkclr s
  | .ckadd v => Sys2Proof.Machine.execCkadd v s
  | .ckaddr => Sys2Proof.Machine.execCkaddr s
  | .ckfold => Sys2Proof.Machine.execCkfold s
  | .ckcmp => Sys2Proof.Machine.execCkcmp s
  | .edgeen => Sys2Proof.Machine.execEdgeen s
  | .edgedis => Sys2Proof.Machine.execEdgedis s
  | .irqoff => Sys2Proof.Machine.execIrqoff s
  | .irqon => Sys2Proof.Machine.execIrqon s
  | .initi => Sys2Proof.Machine.execIniti s
  | .initt => Sys2Proof.Machine.execInitt s
  | .txn => Sys2Proof.Machine.execTxn s
  | .tgtisr => Sys2Proof.Machine.execTgtisr s

end Sys2Proof.Machine
end

