-- ==== Sys2Proof/Machine/Sequencer.lean ====
section
/-! DEFINITION. How a context runs: one zero-time step of the sequence in progress (00_scope.md R14, 41_timing.md R260,
R261), the issue of a host's next move (70_reset_and_hazards.md R629), and the two things that are no context's steps:
delivery (45_control.md R386) and the reset of one controller (70_reset_and_hazards.md R612). -/

namespace Sys2Proof.Machine

/-- Apply a function to the next state of an outcome. -/
def andThen (o : Host.Outcome State Fault Refusal) (f : State → State) : Host.Outcome State Fault Refusal :=
  match o with
  | .next s => .next (f s)
  | .fault r => .fault r
  | .refused r => .refused r

/-- One zero-time step of the current context. -/
def runMicro (m : Micro) (s : State) : Host.Outcome State Fault Refusal :=
  match m with
  | .op i => exec i s
  | .setSt st => .next (s.setSelf { s.self with st := st })
  | .accClear => .next (s.setSelf { s.self with acc := some 0 })
  | .accToRes => .next (s.withReg s.self.acc fun a => s.setSelf { s.self with res := some a })
  | .idxClear => .next (s.setSelf { s.self with idx := some 0 })
  | .idxNext => .next s.idxNext
  | .presence => .next s.presence
  | .recvLoop => .next s.recvLoop
  | .storeRes => .next s.storeRes
  | .decideOutcome => .next s.decideOutcome
  | .setOutcome o => .next (s.setSelf { s.self with outc := some o.code })
  | .armTarget => .next (s.setSelf s.self.armTarget)
  | .sendLoop => .next s.sendLoop
  | .fetchByte => .next s.fetchByte
  | .sendCk => .next s.sendCk
  | .handlerReturn => .next (s.setSelf s.self.leaveHandler)

/-- A sequence with no step left is over: its agent is idle (R260). -/
def State.finish (s : State) : State :=
  if (s.ctx s.cur).status = .ready ∧ (s.ctx s.cur).code = [] then s.setStatus .idle else s

/-- The next step of the sequence that context `c` runs. A DELAY with nothing after it ends here. -/
def runContext (c : ContextId) (s : State) : Host.Outcome State Fault Refusal :=
  match (s.ctx c).code with
  | [] => .next { s.setCtx c { s.ctx c with status := .idle } with cur := c }
  | m :: ms =>
    andThen (runMicro m { s.setCtx c { s.ctx c with status := .ready, code := ms } with cur := c }) State.finish

/-- The host's script once the words before `rest` are issued. -/
def scriptAfter (time : Nat) (rest : List Byte) (items : List HostItem) : List HostItem :=
  match rest with
  | [] => items
  | b :: bs => { time := time, move := .words (b :: bs) } :: items

/-- The host of instance `d` issues an operation word with this opcode: it becomes the issuer of what runs now, and
the script goes on with `script`. -/
def State.issue (s : State) (d : Side) (opcode : Byte) (script : List HostItem) : State :=
  { s.setInst d
      { s.inst d with script := script, ordinary := { (s.inst d).ordinary with opcode := opcode } } with
    cur := { side := d, kind := .ordinary } }

/-- HOST_T writes `DESC.t2i_buf[k]` (R629, R130); an index past the length is refused, as MemWrite is (R121). On an
instance that is not the target, and with no descriptor, the spec gives the host no such move: nothing happens (R629; log
entry 18). -/
def State.hostStore (s : State) (k : Nat) (v : Byte) : State :=
  if s.self.role = .target then
    match s.self.desc with
    | none => s
    | some _ => s.memWrite k v
  else s

/-- The host of instance `d` makes its next move (R260, R629). -/
def issueHost (d : Side) (s : State) : Host.Outcome State Fault Refusal :=
  match (s.inst d).script with
  | [] => .next s
  | { time := _, move := .store k v } :: items => .next ((s.issue d 0 items).hostStore k v)
  | { time := t, move := .words bytes } :: items =>
    match decodeSequence bytes with
    | .empty => .next (s.setInst d { s.inst d with script := items })
    | .op i rest => exec i (s.issue d i.opcode (scriptAfter t rest items))
    | .illegalOp op rest => .next ((s.issue d op (scriptAfter t rest items)).refuse .illegalOp)
    | .badOperand op rest => .next ((s.issue d op (scriptAfter t rest items)).refuse .badOperand)

/-- The delivery agent of instance `d` (R386, R261): ENV chooses the instant of a deliverable edge, delivers it then,
and gives up an instant whose conditions no longer hold (log entry 13). -/
def State.edgeStep (s : State) (d : Side) : State :=
  if (s.inst d).deliverable then
    match (s.inst d).deliverAt with
    | none => s.afterDraw.setInst d { s.inst d with deliverAt := some (s.now + s.drawn) }
    | some _ => s.setInst d (s.inst d).enterHandler
  else s.setInst d { s.inst d with deliverAt := none }

/-- A context after the reset of its controller: its sequence is over; an agent that a refusal halted stays halted
(R612, R557; log entry 14). -/
def Context.afterReset (x : Context) : Context :=
  { Context.idle with status := if x.status = .halted then .halted else .idle }

/-- `IE` of instance `d` at reset (R66). -/
def Params.ieReset (p : Params) : Side → Bool
  | .I => p.ieResetI
  | .T => p.ieResetT

/-- The reset of one controller during a run (R612): its fields take their reset values, its sequences end, its port
becomes an input; the partner sees the line change. `OLAT` takes any value (93 U1). The buffers are the host's and not
the instance's fields, and stay (log entry 14). -/
def State.resetInst (s : State) (d : Side) : State :=
  let i := s.inst d
  let s1 := s.afterDraw.setInst d
    { Inst.reset (drawBit s.drawn) (Params.ieReset s.params d) with
      ordinary := i.ordinary.afterReset
      interrupt := i.interrupt.afterReset
      buffers := i.buffers
      argTable := i.argTable
      script := i.script.filter fun x => decide (s.now < x.time)
      resets := i.resets.tail }
  s1.detectBoth s.line s1.line

end Sys2Proof.Machine
end

