-- ==== Sys2Proof/Machine/Schedule.lean ====
section
/-! DEFINITION. Which agent steps, and how time advances (41_timing.md R261). -/

namespace Sys2Proof.Machine

/-- What can take a step at an instant: a context (INI, TGT, HOST_I, HOST_T), the delivery of an edge, the reset of a
controller (R8, R260, R612). -/
inductive Agent where
  | context (c : ContextId)
  | edge (d : Side)
  | reset (d : Side)
deriving DecidableEq, Repr

/-- All agents of the link. -/
def agents : List Agent :=
  [.context { side := .I, kind := .ordinary }, .context { side := .T, kind := .ordinary },
   .context { side := .I, kind := .interrupt }, .context { side := .T, kind := .interrupt },
   .edge .I, .edge .T, .reset .I, .reset .T]

/-- The instant from which the host's next move is due. -/
def Inst.hostDue (i : Inst) : Option Nat := i.script.head?.map HostItem.time

/-- When a context can take its next step: `none` never, else from that instant on (R260). The ordinary context takes
no step while the handler runs (R130, R385). -/
def Inst.contextDue (i : Inst) (k : ContextKind) (now : Nat) : Option Nat :=
  if k = .ordinary ∧ i.inIsr then none
  else
    match (i.ctx k).status with
    | .ready => some now
    | .sleeping u => some u
    | .polling u => some u
    | .halted => none
    | .idle => if k = .ordinary then i.hostDue else none

/-- When the delivery agent acts next: at once to choose the instant or to give one up, else at the instant chosen. -/
def Inst.edgeDue (i : Inst) (now : Nat) : Option Nat :=
  if i.deliverable then
    match i.deliverAt with
    | none => some now
    | some t => some t
  else
    match i.deliverAt with
    | none => none
    | some _ => some now

/-- From which instant on an agent can act; `none` where nothing is planned. -/
def State.due (s : State) : Agent → Option Nat
  | .context c => (s.inst c.side).contextDue c.kind s.now
  | .edge d => (s.inst d).edgeDue s.now
  | .reset d => (s.inst d).resets.head?

/-- The agent can take a step at `NOW`. -/
def State.ready (s : State) (a : Agent) : Bool :=
  match s.due a with
  | some t => decide (t ≤ s.now)
  | none => false

/-- The agents that can take a step at `NOW`. -/
def State.readyAgents (s : State) : List Agent := agents.filter s.ready

/-- The agent that steps next, any ready one (R261 rule 1): a draw where there is a choice. -/
def State.pick (s : State) : Option Agent :=
  match s.readyAgents with
  | [] => none
  | [a] => some a
  | a :: b :: l => some ((a :: b :: l).getD (s.drawn % (a :: b :: l).length) a)

/-- The state after the pick: no effect but the draw it took. -/
def State.afterPick (s : State) : State :=
  match s.readyAgents with
  | _ :: _ :: _ => s.afterDraw
  | _ => s

/-- One step of an agent. -/
def runAgent (a : Agent) (s : State) : Host.Outcome State Fault Refusal :=
  match a with
  | .context c =>
    if (s.ctx c).status = .idle then issueHost c.side s else runContext c s
  | .edge d => .next (s.edgeStep d)
  | .reset d => .next (s.resetInst d)

/-- The least of two instants, where there is one. -/
def earliest : Option Nat → Option Nat → Option Nat
  | none, b => b
  | some a, none => some a
  | some a, some b => some (min a b)

/-- The next instant at which some agent can act (R261 rule 3). -/
def State.nextInstant (s : State) : Option Nat :=
  agents.foldr (fun a t => earliest (s.due a) t) none

/-- The link's step (R261): a ready agent acts, else time advances, else the run is quiescent. -/
def linkStep (s : State) : Host.Outcome State Fault Refusal :=
  match s.pick with
  | some a => runAgent a s.afterPick
  | none =>
    match s.nextInstant with
    | some t => .next { s with now := t }
    | none => .fault .quiescent

/-- The state with these bytes as the next thing the host of I issues: an idle host, outside a handler, with the bytes
due at once and before anything else in its script, and ENV's pick on it where another agent is ready too. -/
def State.placeWords (s : State) (bytes : List Byte) : State :=
  let i := s.instI
  let s1 := { s with
    instI := { i with
      inIsr := false
      ordinary := { i.ordinary with status := .idle, code := [] }
      script := { time := s.now, move := .words bytes } :: i.script } }
  match s1.readyAgents with
  | _ :: _ :: _ => { s1 with env := { s1.env with tape := 0 :: s1.env.tape } }
  | _ => s1

end Sys2Proof.Machine
end

