-- ==== Sys2Proof/Machine/Step.lean ====
section
/-! DEFINITION. The step of the machine, and the placing of one operation word where the step takes its next one. -/

namespace Sys2Proof.Machine

/-- One step of the link (41_timing.md R261). -/
def step (s : State) : Host.Outcome State Fault Refusal := linkStep s

/-- `s` with the word `w` of the opcode table as the next operation that HOST_I issues (log entry 9). -/
def State.withFetchWord (s : State) (nbits w : Nat) : State := s.placeWords (tableBytes nbits w)

end Sys2Proof.Machine
end

