-- ==== Sys2Proof/Machine/Assembler.lean ====
section
/-! DEFINITION. The assembler syntax (30_encoding.md R186): one operation per line, the mnemonic in any case, then at
most one operand; a semicolon starts a comment. -/

namespace Sys2Proof.Machine

/-- What a line says. -/
inductive AsmLine where
  | blank
  | op (i : Instr)
  | malformed
deriving DecidableEq, Repr

/-- The line without its comment. -/
def stripComment (cs : List Char) : List Char := cs.takeWhile fun c => c ≠ ';'

/-- The words of a line, split at spaces and tabs; `cur` is the word read so far, its last letter first. -/
def lineWords (cur : List Char) : List Char → List (List Char)
  | [] => if cur = [] then [] else [cur.reverse]
  | c :: cs =>
    if c = ' ' ∨ c = '\t' then
      if cur = [] then lineWords [] cs else cur.reverse :: lineWords [] cs
    else lineWords (c :: cur) cs

/-- The value of a decimal digit. -/
def decDigit (c : Char) : Option Nat :=
  if '0' ≤ c ∧ c ≤ '9' then some (c.toNat - '0'.toNat) else none

/-- The value of a hexadecimal digit. -/
def hexDigit (c : Char) : Option Nat :=
  if '0' ≤ c ∧ c ≤ '9' then some (c.toNat - '0'.toNat)
  else if 'a' ≤ c ∧ c ≤ 'f' then some (c.toNat - 'a'.toNat + 10)
  else if 'A' ≤ c ∧ c ≤ 'F' then some (c.toNat - 'A'.toNat + 10)
  else none

/-- The value of a string of digits in a base, most significant first. -/
def digitsValue (base : Nat) (digit : Char → Option Nat) (acc : Nat) : List Char → Option Nat
  | [] => some acc
  | c :: cs =>
    match digit c with
    | some v => digitsValue base digit (acc * base + v) cs
    | none => none

/-- A number as R186 writes it: `0x7F` or `127`. -/
def asmNumber : List Char → Option Nat
  | '0' :: 'x' :: c :: cs => digitsValue 16 hexDigit 0 (c :: cs)
  | [] => none
  | cs => digitsValue 10 decDigit 0 cs

/-- The selector of a parameter name (R182, R186). -/
def paramSelector (cs : List Char) : Option Nat :=
  if cs = "T_REQ".toList then some 0
  else if cs = "T_SETTLE".toList then some 1
  else if cs = "T_SYNC".toList then some 2
  else if cs = "T_HALF".toList then some 3
  else if cs = "T_CELL".toList then some 4
  else if cs = "T_FUDGE".toList then some 5
  else if cs = "T_BIT".toList then some 6
  else if cs = "T_RXBIT".toList then some 7
  else if cs = "T_DRAIN".toList then some 8
  else if cs = "T_REL".toList then some 9
  else none

/-- The operations without an operand, by mnemonic (R183). -/
def plainMnemonics : List (List Char × Instr) :=
  [("SETOUT".toList, .setout), ("SETIN".toList, .setin), ("DRVH".toList, .drvh), ("DRVL".toList, .drvl),
   ("RDLVL".toList, .rdlvl), ("WAITH".toList, .waith), ("RDBIT".toList, .rdbit), ("RDBYTE".toList, .rdbyte),
   ("SSYNC".toList, .ssync), ("RSYNC".toList, .rsync), ("CKCLR".toList, .ckclr), ("CKADDR".toList, .ckaddr),
   ("CKFOLD".toList, .ckfold), ("CKCMP".toList, .ckcmp)] ++
  [("EDGEEN".toList, .edgeen), ("EDGEDIS".toList, .edgedis), ("IRQOFF".toList, .irqoff), ("IRQON".toList, .irqon),
   ("INITI".toList, .initi), ("INITT".toList, .initt), ("TXN".toList, .txn), ("TGTISR".toList, .tgtisr)]

/-- An operation with a number for its operand: a byte, or one bit for WRBIT (R181, R186). -/
def withNumber (m : List Char) (n : Nat) : Option Instr :=
  if m = "WRBYTE".toList ∧ n < 256 then some (.wrbyte (BitVec.ofNat 8 n))
  else if m = "CKADD".toList ∧ n < 256 then some (.ckadd (BitVec.ofNat 8 n))
  else if m = "WRBIT".toList ∧ n < 2 then some (.wrbit (n == 1))
  else if m = "DELAY".toList ∧ n < 10 then some (.delay (BitVec.ofNat 4 n))
  else none

/-- An operation from its mnemonic, in capitals, and its operand's text: DELAY takes a parameter name or a selector
number (R186). -/
def withOperand (m arg : List Char) : Option Instr :=
  match if m = "DELAY".toList then paramSelector arg else none with
  | some sel => some (.delay (BitVec.ofNat 4 sel))
  | none =>
    match asmNumber arg with
    | some n => withNumber m n
    | none => none

/-- One line of assembler text (R186). -/
def assembleLine (cs : List Char) : AsmLine :=
  match lineWords [] (stripComment cs) with
  | [] => .blank
  | [m] =>
    match plainMnemonics.lookup (m.map Char.toUpper) with
    | some i => .op i
    | none => .malformed
  | [m, arg] =>
    match withOperand (m.map Char.toUpper) arg with
    | some i => .op i
    | none => .malformed
  | _ => .malformed

/-- The bytes of a text, where every line is well-formed (R180, R186). -/
def assemble : List (List Char) → Option (List Byte)
  | [] => some []
  | l :: ls =>
    match assembleLine l, assemble ls with
    | .blank, some bs => some bs
    | .op i, some bs => some (encode i ++ bs)
    | _, _ => none

end Sys2Proof.Machine
end

