-- ==== Sys2Proof/Machine/Link.lean ====
section
/-! DEFINITION. The link as a whole (48_link.md): the checksum function, the transactions of a run, the timing premise TP,
the durations and the nominal timeline, and the functional relation. Nothing here is used by the step: these are the
spec's derived definitions, in terms of which claims about the timed level are stated. -/

namespace Sys2Proof.Machine

/-- The sum of a byte sequence modulo 256 (R177). -/
def sumBytes (bytes : List Byte) : Byte := bytes.foldl sumAdd 0

/-- `CKSUM(D)` (R177, R355). -/
def cksum (bytes : List Byte) : Byte := fold (sumBytes bytes)

/-! ### Runs and transactions (R511, R630) -/

/-- An instance as a run starts with it (R66): its reset values, with whatever its host has at hand and will do. -/
def Inst.fresh (i : Inst) : Prop :=
  ∃ olat ie, i =
    { Inst.reset olat ie with
      buffers := i.buffers, argTable := i.argTable, script := i.script, resets := i.resets }

/-- A state in which a run starts (R511). -/
def State.start (s : State) : Prop := s.instI.fresh ∧ s.instT.fresh ∧ s.now = 0 ∧ s.trace = []

/-- The states of a run, or of a part of one: the step at each answers the next. -/
def IsRun : List State → Prop
  | s :: t :: l => step s = .next t ∧ IsRun (t :: l)
  | _ => True

/-- The states a run goes through from `s` in its next `n` steps, `s` first; fewer where it ends before. The step is a
function of the state, which holds ENV's draws and the hosts' plans, so this is how the run goes on (R261, R511). -/
def statesFrom : Nat → State → List State
  | 0, s => [s]
  | n + 1, s =>
    s ::
      match step s with
      | .next t => statesFrom n t
      | _ => []

/-- The run goes on for ever and the agent of context `c` is never idle again, though no refusal halted it: a hang, which
is no end of a run (R265, R417, R630). -/
def State.hangs (s : State) (c : ContextId) : Prop :=
  ∀ n, (statesFrom n s).length = n + 1 ∧
    ∀ t ∈ statesFrom n s, (t.ctx c).status ≠ .idle ∧ (t.ctx c).status ≠ .halted

/-- The step at this state is the host of `d` issuing the words `bytes` (R260, R629). -/
def State.issuesWords (s : State) (d : Side) (bytes : List Byte) : Prop :=
  s.pick = some (.context { side := d, kind := .ordinary }) ∧ (s.inst d).ordinary.status = .idle ∧
    (s.inst d).script.head?.map HostItem.move = some (.words bytes)

/-- The step at this state is a host issuing an operation word, a word that the decoder refuses among them: R512 TP8 speaks
of operations of R183, which a refused word is not (R184), while R557 calls it a refused operation that its host issued.
That TP8 counts it is a DESIGN CHOICE (log entry 28). -/
def State.issues (s : State) : Prop := ∃ d bytes, bytes ≠ [] ∧ s.issuesWords d bytes

/-- The step at this state is HOST_T going on with what it issued before: the next operation of a composite, which is its
expansion (R187), or the second step of INITT. Another poll of the WAITH it is in, and the end of the DELAY it is in, are
not (log entry 28). -/
def State.hostTGoesOn (s : State) : Prop :=
  s.pick = some (.context { side := .T, kind := .ordinary }) ∧ s.instT.ordinary.code ≠ [] ∧
    ∀ u, s.instT.ordinary.status ≠ .polling u

/-- The step at this state is HOST_I calling TXN. -/
def State.callsTxn (s : State) : Prop :=
  ∃ bytes rest, s.issuesWords .I bytes ∧ decodeSequence bytes = .op .txn rest

/-- The ordinary context of I has no sequence running. -/
def State.initiatorIdle (s : State) : Bool := decide (s.instI.ordinary.status = .idle)

/-- The target's handler is over: `T.IN_ISR = 0` and TGT is idle (R630). -/
def State.handlerOver (s : State) : Bool := !s.instT.inIsr && decide (s.instT.interrupt.status = .idle)

/-- An edge waits for its delivery to the target. -/
def State.edgeWaits (s : State) : Bool := s.instT.edgePend && decide (s.instT.role = .target)

/-- One transaction of a run (R511): the states of the run before the TXN call, and the state whose step is the call. The
run after the call follows from that state. -/
structure Transaction where
  past : List State
  call : State

/-- The run up to `n` steps after the call. -/
def Transaction.run (x : Transaction) (n : Nat) : List State := x.past ++ statesFrom n x.call

/-- The states after the call, up to `n` steps after it. -/
def Transaction.after (x : Transaction) (n : Nat) : List State := (statesFrom n x.call).tail

/-- The transaction is one of a run from reset, and begins with a TXN call (R511). -/
def Transaction.Valid (x : Transaction) : Prop :=
  (∃ s l, x.run 0 = s :: l ∧ s.start) ∧ IsRun (x.run 0) ∧ x.call.callsTxn

/-- TXN returns in the state `t`, which ends the transaction (R511, R630): the first after the call in which INI is idle
again, with ST back at `I_IDLE` (R419; a reset of I ends the sequence too, and leaves ST at UNINIT). -/
def Transaction.Returns (x : Transaction) (t : State) : Prop :=
  (∃ n, (x.after n).find? State.initiatorIdle = some t) ∧ t.instI.st = .iIdle

/-- TXN never returns: the initiator hangs (R417, R511). -/
def Transaction.Hangs (x : Transaction) : Prop :=
  ∃ s, step x.call = .next s ∧ s.hangs { side := .I, kind := .ordinary }

/-- The state `t` is where a claim about both instances takes the transaction's end (R630): the first state, from TXN's
return on, in which the target's handler is over, whatever HOST_I does meanwhile. -/
def Transaction.Settles (x : Transaction) (t : State) : Prop :=
  (∃ s, x.Returns s) ∧
    ∃ n, ((x.after n).dropWhile fun s => !s.initiatorIdle).find? State.handlerOver = some t

/-- The states before TXN has returned and the handler is over; `returned`: TXN has returned before. -/
def unsettled (returned : Bool) : List State → List State
  | [] => []
  | s :: l =>
    if (returned || s.initiatorIdle) && s.handlerOver then []
    else s :: unsettled (returned || s.initiatorIdle) l

/-- No controller is reset between the call and the end: a reset is an input that R512 does not speak of (R612). -/
def Transaction.NoReset (x : Transaction) : Prop :=
  ∀ n, ∀ s ∈ x.call :: unsettled false (x.after n), ∀ d, s.pick ≠ some (.reset d)

/-- The instant at which the edge that is pending at instance `d` in `t` was latched, where a step led from `s` to `t`;
`since` is that instant for the edge pending in `s`. -/
def edgeSince (d : Side) (since : Option Nat) (s t : State) : Option Nat :=
  if (t.inst d).edgePend then (if (s.inst d).edgePend then since else some t.now) else none

/-- The edge-to-handler latencies of instance `d` along these states (R386): for each entry into the handler the time
since its edge was latched. -/
def latencies (d : Side) (since : Option Nat) : List State → List Nat
  | s :: t :: l =>
    if (s.inst d).inIsr = false ∧ (t.inst d).inIsr = true then
      (t.now - since.getD s.now) :: latencies d (edgeSince d since s t) (t :: l)
    else latencies d (edgeSince d since s t) (t :: l)
  | _ => []

/-- The instant at which the edge still pending at the end of these states was latched. -/
def waitingSince (d : Side) (since : Option Nat) : List State → Option Nat
  | s :: t :: l => waitingSince d (edgeSince d since s t) (t :: l)
  | _ => since

/-- `lam` is an edge-to-handler latency of the target in the run, before or after this transaction (R512 TP2): that of an
entry into the handler, or the wait so far of an edge that stays pending from some state on and is never delivered. -/
def Transaction.Latency (x : Transaction) (lam : Nat) : Prop :=
  (∃ n, lam ∈ latencies .T none (x.run n)) ∨
    ∃ n u, (∀ m, n ≤ m → waitingSince .T none (x.run m) = some u) ∧
      ∃ m t, n ≤ m ∧ (x.run m).getLast? = some t ∧ lam = t.now - u

/-- ST leaves `I_EXIT` for `I_IDLE` in a step from `s` to `t`: a TXN returns (R419). -/
def txnReturns (s t : State) : Bool :=
  match s.instI.st, t.instI.st with
  | .iExit _, .iIdle => true
  | _, _ => false

/-- The instant at which a TXN last returned along these states. -/
def lastReturn : List State → Option Nat
  | s :: t :: l => (lastReturn (t :: l)).or (if txnReturns s t then some t.now else none)
  | _ => none

/-- Of the states that follow a TXN call, those in which TGTISR is not over; `ran`: the handler was entered before. Where
TXN has returned with no handler entered and no edge waiting for one, the call starts none, and the states end with TXN
(log entry 28). -/
def untilHandlerEnds (ran : Bool) : List State → List State
  | [] => []
  | s :: l =>
    if s.instT.inIsr then s :: untilHandlerEnds true l
    else if ran || (s.initiatorIdle && !s.edgeWaits) then []
    else s :: untilHandlerEnds false l

/-! ### The timing premise (R512) -/

/-- TP1: the release is caught. -/
abbrev TP1 (p : Params) : Prop := p.jPoll < p.tRel

/-- TP2: the presence window, where `latency` holds of every edge-to-handler latency of the run. -/
abbrev TP2 (p : Params) (latency : Nat → Prop) : Prop :=
  (∀ lam, latency lam → lam ≤ p.lambdaMax) ∧
  p.lambdaMax < p.tReq + p.tSettle ∧ p.tReq + p.tSettle + 2 * p.jDelay < p.tSync ∧ p.wEdgeMin ≤ p.tReq

/-- TP3 for the bit `k`: (a) the sample comes after its cell begins, (b) and before it ends. -/
abbrev TP3bit (p : Params) (k : Int) : Prop :=
  (p.tHalf : Int) - p.tRel - p.jDelay > k * (p.tBit + 2 * p.jDelay - p.tRxBit) ∧
  (p.tHalf : Int) + p.jPoll + p.jDelay + k * (p.tRxBit + p.jDelay) < p.tRel + (k + 1) * p.tBit

/-- TP3: bit sampling, for every bit of a byte. -/
abbrev TP3 (p : Params) : Prop :=
  TP3bit p 0 ∧ TP3bit p 1 ∧ TP3bit p 2 ∧ TP3bit p 3 ∧ TP3bit p 4 ∧ TP3bit p 5 ∧ TP3bit p 6 ∧ TP3bit p 7

/-- TP4: sync entry. -/
abbrev TP4 (p : Params) : Prop :=
  (p.tHalf : Int) - p.tRel - p.jDelay > 8 * (p.tBit + 2 * p.jDelay - p.tRxBit) ∧
  p.tHalf + p.jPoll + 9 * p.jDelay + 8 * p.tRxBit ≤ p.tRel + 8 * p.tBit + p.tSync

/-- TP5: no noise. -/
abbrev TP5 (p : Params) : Prop := p.noise = .none

/-- TP6's bound `G_MIN` (R512, R619). -/
def gMin (p : Params) : Int := p.tRel + p.tDrain + 2 * p.jDelay - p.tHalf

/-- TP6: spacing. TXN is called more than `G_MIN` after the previous TXN returned; the first of a run after INITT. -/
def TP6 (x : Transaction) : Prop :=
  match lastReturn (x.past ++ [x.call]) with
  | some r => (r : Int) + gMin x.call.params < x.call.now
  | none => ∃ s ∈ x.past ++ [x.call], s.instT.role = .target

/-- The fault code is a refusal's (R554, R555). -/
def FaultCode.isRefusal (c : FaultCode) : Bool := decide (c ≠ .lineContention)

/-- The bytes of `DESC.t2i_buf`; none where there is no descriptor. -/
def Inst.t2iBytes (i : Inst) : List Byte :=
  match i.desc with
  | some e => (i.buffer e.t2i).bytes
  | none => []

/-- No refusal is recorded in FAULTS of either instance (R512 TP7). -/
abbrev State.noneRefused (s : State) : Prop := ∀ c ∈ s.instI.faults ++ s.instT.faults, c.isRefusal = false

/-- TP7: the set-up, at the state of the TXN call. -/
abbrev TP7 (s : State) : Prop :=
  s.instI.role = .initiator ∧ s.instT.role = .target ∧
  (∃ d e, s.instI.desc = some d ∧ s.instT.desc = some e ∧
    (s.instI.buffer d.t2i).len = (s.instT.buffer e.t2i).len) ∧
  s.instT.interrupt.status = .idle ∧ s.instT.st = .tArmed ∧ s.instT.edgeEn = true ∧ s.instT.edgePend = false ∧
  s.instT.dir = .input ∧ s.line = .high ∧ s.noneRefused

/-- TP8: no interference. From the TXN call to the end of TGTISR, and not after it, no host issues an operation (nor a word
that is refused, log entry 28) or goes on with one; what a host plans for later, and a host's write of its buffer, which is no operation of R183, are not excluded. -/
def TP8 (x : Transaction) : Prop :=
  ∀ n, ∀ s ∈ untilHandlerEnds false (x.after n), ¬ s.issues ∧ ¬ s.hostTGoesOn

/-- The timing premise (R512). -/
def TP (x : Transaction) : Prop :=
  TP1 x.call.params ∧ TP2 x.call.params x.Latency ∧ TP3 x.call.params ∧ TP4 x.call.params ∧ TP5 x.call.params ∧
    TP6 x ∧ TP7 x.call ∧ TP8 x

/-! ### Durations and the nominal timeline (R178, R418, R466, R515, R627) -/

/-- SSYNC with every draw at 0. -/
def ssyncTime (p : Params) : Nat := p.tSync + p.tRel

/-- A byte and its sync with every draw at 0. -/
def byteTime (p : Params) : Nat := 8 * p.tBit + p.tSync + p.tRel

/-- Release number `j`, from the request's falling edge, with edge latency `lam` (R515). -/
def releaseTime (p : Params) (lam j : Nat) : Nat := lam + p.tSync + j * byteTime p

/-- The start of cell `m` of byte `k` (R515). -/
def cellStart (p : Params) (lam k m : Nat) : Nat := releaseTime p lam k + p.tRel + m * p.tBit

/-- Sample `m` of byte `k` (R515). -/
def sampleTime (p : Params) (lam k m : Nat) : Nat := releaseTime p lam k + p.tHalf + m * p.tRxBit

/-- TXN's return on the NoResponse path (R418). -/
def noResponseTime (p : Params) : Nat := p.tReq + p.tSettle

/-- TXN's return on the other paths, for `n` data bytes (R418). -/
def txnTime (p : Params) (lam n : Nat) : Nat := releaseTime p lam (n + 1) + p.tHalf

/-- TGTISR's duration for `n` data bytes (R466). -/
def handlerTime (p : Params) (n : Nat) : Nat := ssyncTime p + (n + 1) * byteTime p + p.tDrain

/-- The number of TGTISR's delays for `n` data bytes, each of which may add `J_DELAY` (R466). -/
def handlerDelays (n : Nat) : Nat := 2 + (n + 1) * 18 + 1

/-- The target's frame, from the request's falling edge to its release of the port (R178). -/
def frameTime (p : Params) (lam n : Nat) : Nat := lam + handlerTime p n

/-! ### The functional level (R523) -/

/-- `txn_f` as a relation: the outcome `o` and the initiator's buffer `b` after one transaction. `bI` is the initiator's
buffer before the call and `bT` the target's at delivery; `premise` is TP1 to TP4 and TP6. Under noise the presence
sample, the received bytes `r`, as many as the initiator's buffer has, and the received checksum byte `c` are chosen
freely. -/
def txnF (bI bT : List Byte) (responds premise : Prop) (noise : Noise) (o : TxnOutcome) (b : List Byte) : Prop :=
  (¬ responds ∧ o = .noResponse ∧ b = bI) ∨
  (responds ∧ premise ∧ noise = .none ∧ o = .completed ∧ b = bT) ∨
  (responds ∧ premise ∧ noise = .arbitrary ∧
    ((o = .noResponse ∧ b = bI) ∨
      ∃ (r : List Byte) (c : Byte), r.length = bI.length ∧ b = r ∧
        o = if cksum r = c then .completed else .dataError))

/-- `target_responds`: TP2 and TP7 hold. -/
def Transaction.TargetResponds (x : Transaction) : Prop := TP2 x.call.params x.Latency ∧ TP7 x.call

/-- There is no target: at the call T is absent or uninitialized (its role is not TARGET, R232) or unarmed, and TP7 holds
but for the target it asks for: I is an initiator with a table, T's port is an input with TGT idle, the line is 1, and no
refusal is recorded. -/
def Transaction.NoTarget (x : Transaction) : Prop :=
  (x.call.instT.role ≠ .target ∨ x.call.instT.edgeEn = false) ∧
  x.call.instI.role = .initiator ∧ x.call.instI.desc ≠ none ∧
  x.call.handlerOver = true ∧ x.call.instT.dir = .input ∧ x.call.line = .high ∧ x.call.noneRefused

/-- A latency of the target is at least `T_REQ + T_SETTLE`: the sample comes before the acknowledge (R623). -/
def Transaction.Late (x : Transaction) : Prop := ∃ lam, x.Latency lam ∧ x.call.params.tReq + x.call.params.tSettle ≤ lam

/-- The transactions that the relation is about: TP8 holds, no controller is reset, and either the target responds, or
there is none and no noise (R518, which the relation's first line cites, supposes NOISE none; log entry 29). A present
target that is late is outside it: there the timed level decides. -/
def Transaction.Covered (x : Transaction) : Prop :=
  TP8 x ∧ x.NoReset ∧ (x.TargetResponds ∨ x.NoTarget ∧ TP5 x.call.params)

/-- TP1 to TP4 and TP6, the relation's premise beside the noise model. -/
def Transaction.Premise (x : Transaction) : Prop :=
  TP1 x.call.params ∧ TP2 x.call.params x.Latency ∧ TP3 x.call.params ∧ TP4 x.call.params ∧ TP6 x

/-- `B_T` is the target's buffer at the delivery of the request. -/
def Transaction.Sends (x : Transaction) (bT : List Byte) : Prop :=
  ∃ n s, (x.after n).find? (fun s => s.instT.inIsr) = some s ∧ bT = s.instT.t2iBytes

/-- The end state of R521: the initiator's part always, in the state `t` in which TXN returns; the target's and the
line's, once the handler has returned, where the target responds. -/
def Transaction.EndState (x : Transaction) (t : State) : Prop :=
  t.instI.dir = .output ∧ t.instI.olat = true ∧ t.instI.ie = x.call.instI.ie ∧
  (x.TargetResponds →
    ∃ u, x.Settles u ∧ u.instT.dir = .input ∧ u.instT.edgeEn = true ∧ u.instT.edgePend = false ∧
      u.instT.st = .tArmed ∧ u.line = .high ∧ u.instI.dir = .output ∧ u.instI.olat = true)

/-- The transaction is one that the functional relation describes: it returns, with its outcome, its buffer, OUTC and the
end state. -/
def Transaction.Abstracted (x : Transaction) : Prop :=
  ∃ (o : TxnOutcome) (t : State) (bT : List Byte), x.Returns t ∧ t.instI.outc = some o.code ∧ x.EndState t ∧
    (x.TargetResponds → x.Sends bT) ∧
    txnF x.call.instI.t2iBytes bT x.TargetResponds x.Premise x.call.params.noise o t.instI.t2iBytes

/-- The functional abstraction (R523) as a claim about one transaction: where the relation is about it, it describes it;
where the target responds, under the relation's premise. -/
def Transaction.Abstraction (x : Transaction) : Prop :=
  x.Covered → (x.TargetResponds → x.Premise) → x.Abstracted

end Sys2Proof.Machine
end

