-- ==== Sys2Proof/Safety.lean ====
section
/-! DEFINITION. What a good state and a clean run are, and the terms claims are stated in. -/

namespace Sys2Proof.Machine

/-! ### Runs -/

/-- Some number of steps leads from `s` to `t`. -/
def Reaches (s t : State) : Prop := ∃ n, Host.Core.run Sys2Proof.core n s = .next t

/-- No fault was recorded in the run so far: its trace is empty, which a reset of one controller does not empty as it
empties FAULTS, and so is FAULTS of both instances (R553, R630). -/
def State.clean (s : State) : Prop := s.trace = [] ∧ s.instI.faults = [] ∧ s.instT.faults = []

/-- No agent is halted by a refusal (R557). -/
def State.noneHalted (s : State) : Prop := ∀ c, (s.ctx c).status ≠ .halted

/-- The end of a run (R630): it is quiescent and no host issues anything further. -/
def State.ended (s : State) : Prop := step s = .fault .quiescent

/-- A clean end of a run (R630): an end with no fault recorded and no agent halted. -/
def State.cleanEnd (s : State) : Prop := s.ended ∧ s.clean ∧ s.noneHalted

/-- Run operations one after the other, each from the state the one before leaves. -/
def execAll : List Instr → State → Host.Outcome State Fault Refusal
  | [], s => .next s
  | i :: is, s =>
    match exec i s with
    | .next t => execAll is t
    | .fault r => .fault r
    | .refused r => .refused r

/-! ### The invariant -/

/-- The zero-time steps a handler's sequence is made of (R462, with the expansions of its composites). -/
def Micro.inHandler : Micro → Bool
  | .op .tgtisr | .op .edgedis | .op .edgeen | .op .ssync | .op .ckclr | .op .ckfold | .op (.ckadd _) => true
  | .op (.wrbyte _) | .op (.wrbit _) | .op .drvh | .op .drvl | .op .setout | .op .setin | .op (.delay _) => true
  | .setSt _ | .idxClear | .idxNext | .sendLoop | .fetchByte | .sendCk | .handlerReturn => true
  | _ => false

/-- What every step keeps of an instance. -/
structure Inst.Inv (p : Params) (now : Nat) (i : Inst) : Prop where
  /-- Every buffer is in its canonical form and no longer than MAX_LEN (R125). -/
  buffersLegal : ∀ b ∈ i.buffers, b.legal p = true
  /-- The tables name buffers that are there (R120). -/
  tableNames : ∀ t, i.table = some t → t.within i.buffers.length = true
  argNames : i.argTable.within i.buffers.length = true
  /-- FAULTS is written as a set (R59). -/
  faultsWf : faultsSorted i.faults = true
  /-- TABLE is none exactly before initialization (R58, R57). -/
  roleTable : i.role = .unset ↔ i.table = none
  /-- An edge is pending only while detection is enabled (R52, R380 to R382). -/
  pendEnabled : i.edgePend = true → i.edgeEn = true
  fallPending : ∀ t, i.edgeFall = some t → i.edgePend = true ∧ t ≤ now
  /-- Outcome codes 3 to 255 are never produced (R179). -/
  outcome : ∀ c, i.outc = some c → c.toNat ≤ 2
  /-- IDX fits its register (R54). -/
  idxWidth : ∀ n, i.idx = some n → n < 2 ^ p.idxW
  /-- An idle agent has nothing left to do (R260). -/
  idleDone : ∀ k, (i.ctx k).status = .idle → (i.ctx k).code = []
  /-- Only the handler returns from the handler (R387). -/
  hostCode : Micro.handlerReturn ∉ i.ordinary.code
  /-- The interrupt context runs nothing but TGTISR (R564, R462). -/
  handlerCode : ∀ m ∈ i.interrupt.code, m.inHandler = true
  /-- The handler runs with interruption disabled (R386). -/
  isrMasked : i.inIsr = true → i.ie = false

/-- What every step keeps. -/
structure State.Inv (s : State) : Prop where
  instI : s.instI.Inv s.params s.now
  instT : s.instT.Inv s.params s.now
  /-- The trace is in the order of time (R553, R65). -/
  traceOrdered : s.trace.Pairwise fun a b => a.time ≤ b.time
  tracePast : ∀ r ∈ s.trace, r.time ≤ s.now

/-! ### Frames -/

/-- `j` is `i` but for what its edge detector latched. -/
def SameButEdges (i j : Inst) : Prop := j = { i with edgePend := j.edgePend, edgeFall := j.edgeFall }

/-- Everything outside the two instances and ENV's draws is the same. -/
def SameGlobals (s t : State) : Prop :=
  t.now = s.now ∧ t.params = s.params ∧ t.cur = s.cur

/-- What a port write leaves (R231, R233 to R236): the new direction and latch, the fault record where the write first
makes the line contended, whatever the detectors latched, and nothing else changed. -/
structure PortWritten (s t : State) (dir : Dir) (olat : Bool) : Prop where
  globals : SameGlobals s t
  self : SameButEdges
    { s.self with
      dir := dir
      olat := olat
      faults :=
        if s.line ≠ .contended ∧ t.line = .contended then insertFault .lineContention s.self.faults
        else s.self.faults }
    t.self
  partner : SameButEdges (s.inst s.cur.side.other) (t.inst s.cur.side.other)
  trace :
    t.trace =
      s.trace ++
        if s.line ≠ .contended ∧ t.line = .contended then
          [{ side := s.cur.side, code := .lineContention, opcode := s.opcode, time := s.now }]
        else []

/-- What a refusal leaves (R557): the fault record, the issuing agent halted, and nothing else changed. -/
structure Refused (s t : State) (code : FaultCode) : Prop where
  globals : SameGlobals s t
  env : t.env = s.env
  self : t.self =
    { s.self.setCtx s.cur.kind { s.ctx s.cur with status := .halted, code := [] } with
      faults := insertFault code s.self.faults }
  partner : t.inst s.cur.side.other = s.inst s.cur.side.other
  trace : t.trace = s.trace ++ [{ side := s.cur.side, code := code, opcode := s.opcode, time := s.now }]

/-! ### A controller that runs alone -/

/-- The link around the ordinary context of instance `d`, with nothing else to happen: no reset, no handler, no armed
target, a partner that does nothing; only the host or the engine of `d` can step. -/
structure State.Alone (s : State) (d : Side) : Prop where
  noResets : (s.inst .I).resets = [] ∧ (s.inst .T).resets = []
  noTarget : (s.inst .I).role ≠ .target ∧ (s.inst .T).role ≠ .target
  noDelivery : (s.inst .I).deliverAt = none ∧ (s.inst .T).deliverAt = none
  noHandler : (s.inst .I).interrupt.status = .idle ∧ (s.inst .T).interrupt.status = .idle
  notMasked : (s.inst d).inIsr = false
  partnerIdle : (s.inst d.other).ordinary.status = .idle ∧ (s.inst d.other).script = []

/-- The ordinary context of `d` issues the operation: it is the current context, with no sequence running. -/
def State.Issuing (s : State) (d : Side) : Prop :=
  s.cur = { side := d, kind := .ordinary } ∧ (s.ctx s.cur).status = .idle ∧ (s.ctx s.cur).code = []

/-- The operation, issued in `s`, runs to its end in a state that `post` describes: `exec` answers a next state, and
from it steps of the machine lead to that state, with the issuing agent idle again. -/
def Completes (i : Instr) (s : State) (post : State → Prop) : Prop :=
  ∃ s1 t, exec i s = .next s1 ∧ Reaches s1 t ∧ (t.ctx s.cur).status = .idle ∧ (t.ctx s.cur).code = [] ∧ post t

end Sys2Proof.Machine
end

