-- ==== Sys2Proof/Certificates/Slice0/Obligations.lean ====
section
/-! DEFINITION. The statements for the provers. Each docstring names the rules of spec/ it formalises. -/

open Sys2Proof Sys2Proof.Machine

/-! ### Encoding (30_encoding.md) -/

/-- R180, R181, R183: every operation's word decodes to it, with every operand the encoding admits, and the decoder
leaves the bytes after it. -/
def Obligations.DecodeOfEncode : Prop :=
  ∀ (i : Instr) (rest : List Byte), i.wf = true → decode (encode i ++ rest) = .op i rest

/-- R180, R181, R183: an operation is decoded only from its own word, and it is well-formed. -/
def Obligations.DecodeOnlyItsWord : Prop :=
  ∀ (bytes rest : List Byte) (i : Instr), decode bytes = .op i rest → i.wf = true ∧ bytes = encode i ++ rest

/-- R182, R183: a few words of each family, written out from the opcode map (the vectors V110 to V117). -/
def Obligations.OpcodeMapWords : Prop :=
  decode [0x01] = .op .setout [] ∧ decode [0x02] = .op .setin [] ∧ decode [0x03] = .op .drvh [] ∧
  decode [0x04] = .op .drvl [] ∧ decode [0x05] = .op .rdlvl [] ∧ decode [0x10, 0x03] = .op (.delay 3) [] ∧
  decode [0x11] = .op .waith [] ∧ decode [0x20, 0x01] = .op (.wrbit true) [] ∧
  decode [0x22, 0x5A] = .op (.wrbyte 0x5A) [] ∧ decode [0x31] = .op .rsync [] ∧
  decode [0x41, 0xFF] = .op (.ckadd 0xFF) [] ∧ decode [0x52] = .op .irqoff [] ∧ decode [0x62] = .op .txn []

/-- R184, R557: what a sequence of operations may not hold. Every opcode outside the map and the word 0x63 decode to
ILLEGAL_OP; a P-format operand with bits 7:4 not 0 or a selector of 10 to 15, and a WRBIT operand with bits 7:1 not 0,
decode to BAD_OPERAND; and a host that issues such a word is refused: the fault is recorded, the host halts, and nothing
else changes but its place in its script. That the record names the refused byte as its opcode is the model's choice (log
entry 15). -/
def Obligations.IllegalWords : Prop :=
  (∀ (op : Byte) (rest : List Byte),
    (op.toNat = 0x00 ∨ (0x06 ≤ op.toNat ∧ op.toNat ≤ 0x0F) ∨ (0x12 ≤ op.toNat ∧ op.toNat ≤ 0x1F) ∨
      (0x24 ≤ op.toNat ∧ op.toNat ≤ 0x2F) ∨ (0x32 ≤ op.toNat ∧ op.toNat ≤ 0x3F) ∨
      (0x45 ≤ op.toNat ∧ op.toNat ≤ 0x4F) ∨ (0x54 ≤ op.toNat ∧ op.toNat ≤ 0x5F) ∨ 0x63 ≤ op.toNat) →
    decodeSequence (op :: rest) = .illegalOp op rest) ∧
  (∀ (x : Byte) (rest : List Byte), x.toNat / 16 ≠ 0 ∨ 10 ≤ x.toNat % 16 →
    decodeSequence (0x10 :: x :: rest) = .badOperand 0x10 rest) ∧
  (∀ (x : Byte) (rest : List Byte), x.toNat / 2 ≠ 0 →
    decodeSequence (0x20 :: x :: rest) = .badOperand 0x20 rest) ∧
  (∀ (s : State) (d : Side) (time : Nat) (bytes rest : List Byte) (items : List HostItem) (op : Byte),
    (s.inst d).script = { time := time, move := .words bytes } :: items →
    (decodeSequence bytes = .illegalOp op rest →
      ∃ t, issueHost d s = .next t ∧ Refused (s.issue d op (scriptAfter time rest items)) t .illegalOp) ∧
    (decodeSequence bytes = .badOperand op rest →
      ∃ t, issueHost d s = .next t ∧ Refused (s.issue d op (scriptAfter time rest items)) t .badOperand))

/-! ### The step (41_timing.md R261) -/

/-- R261: where the host whose turn it is has a well-formed operation word next, the step runs that operation, issued
by that host: the script moves past the word and the opcode is noted for fault records. -/
def Obligations.StepRunsDecodedWord : Prop :=
  ∀ (s : State) (d : Side) (time : Nat) (bytes rest : List Byte) (items : List HostItem) (i : Instr),
    s.pick = some (.context { side := d, kind := .ordinary }) →
    (s.inst d).ordinary.status = .idle →
    (s.inst d).script = { time := time, move := .words bytes } :: items →
    decodeSequence bytes = .op i rest →
    step s = exec i (s.afterPick.issue d i.opcode (scriptAfter time rest items))

/-- R261, R187: where the context whose turn it is has a sequence running, the step takes the sequence's next zero-time
step; where that was the last, the agent becomes idle. -/
def Obligations.StepRunsSequence : Prop :=
  ∀ (s : State) (c : ContextId) (m : Micro) (ms : List Micro),
    s.pick = some (.context c) → (s.ctx c).status ≠ .idle → (s.ctx c).code = m :: ms →
    step s =
      andThen
        (runMicro m
          { s.afterPick.setCtx c { s.ctx c with status := .ready, code := ms } with cur := c })
        State.finish

/-- R261 rule 3: when no agent is ready, time advances to the least instant at which one can act, and not past any. -/
def Obligations.TimeAdvance : Prop :=
  ∀ (s : State) (u : Nat) (b : Agent), (∀ a, s.ready a = false) → s.due b = some u →
    ∃ t, step s = .next { s with now := t } ∧ s.now < t ∧ t ≤ u ∧
      (∀ (a : Agent) (v : Nat), s.due a = some v → t ≤ v) ∧ ∃ a, s.due a = some t

/-- R261, R630: the machine stops exactly where no agent has anything left to do; in every other state it goes on, and
no operation stops it. -/
def Obligations.QuiescentStops : Prop :=
  ∀ s : State,
    (step s = .fault .quiescent ↔ ∀ a, s.due a = none) ∧
    (∀ (a : Agent) (u : Nat), s.due a = some u → ∃ t, step s = .next t)

/-! ### The line port (40_line_port.md) -/

/-- R239, R230, R232: while the line is not contended it is low exactly when a port drives 0 and no port drives 1. -/
def Obligations.LineOwnership : Prop :=
  ∀ s : State, s.line ≠ .contended →
    (s.line = .low ↔
      (∃ d, (s.inst d).dir = .output ∧ (s.inst d).olat = false) ∧
        ¬ ∃ d, (s.inst d).dir = .output ∧ (s.inst d).olat = true)

/-- R233, R380: SETOUT sets the direction and nothing else of the port, and raises LINE_CONTENTION exactly if the port was
an input, the partner drives and the latches differ; the line takes the latch's level; on an output it changes nothing.
A fall is an edge, which is pending at every enabled detector; that it is pending at once is the model's choice (log entry
11). -/
def Obligations.SetoutEffect : Prop :=
  encode .setout = [0x01] ∧
  ∀ s : State, ∃ t, exec .setout s = .next t ∧ PortWritten s t .output s.self.olat ∧
    (t.trace ≠ s.trace ↔
      s.self.dir = .input ∧ (s.inst s.cur.side.other).dir = .output ∧
        s.self.olat ≠ (s.inst s.cur.side.other).olat) ∧
    (t.line ≠ .contended → (t.line = .high ↔ s.self.olat = true)) ∧
    (s.line = .high → t.line = .low → ∀ d, (s.inst d).edgeEn = true → (t.inst d).edgePend = true) ∧
    (s.self.dir = .output → t = s)

/-- R234: SETIN releases the port, keeps the latch and raises nothing; the line is then the partner's level, or high; on
an input it changes nothing. -/
def Obligations.SetinEffect : Prop :=
  encode .setin = [0x02] ∧
  ∀ s : State, ∃ t, exec .setin s = .next t ∧ PortWritten s t .input s.self.olat ∧ t.trace = s.trace ∧
    t.self.faults = s.self.faults ∧
    (t.line = .low ↔
      (s.inst s.cur.side.other).dir = .output ∧ (s.inst s.cur.side.other).olat = false) ∧
    t.line ≠ .contended ∧ (s.self.dir = .input → t = s)

/-- R235: DRVH writes the latch, and raises LINE_CONTENTION exactly if the port is an output, the latch was 0 and the
partner drives 0; on an input the line stays, and a latch at 1 already stays with everything else. -/
def Obligations.DrvhEffect : Prop :=
  encode .drvh = [0x03] ∧
  ∀ s : State, ∃ t, exec .drvh s = .next t ∧ PortWritten s t s.self.dir true ∧
    (t.trace ≠ s.trace ↔
      s.self.dir = .output ∧ s.self.olat = false ∧ (s.inst s.cur.side.other).dir = .output ∧
        (s.inst s.cur.side.other).olat = false) ∧
    (s.self.dir = .input → t.line = s.line) ∧ (s.self.olat = true → t = s)

/-- R236, R380: DRVL writes the latch, and raises LINE_CONTENTION exactly if the port is an output, the latch was 1 and the
partner drives 1; on an input the line stays; a latch at 0 already stays with everything else. A line that falls is an
edge, pending at every enabled detector; that it is pending at once is the model's choice (log entry 11). -/
def Obligations.DrvlEffect : Prop :=
  encode .drvl = [0x04] ∧
  ∀ s : State, ∃ t, exec .drvl s = .next t ∧ PortWritten s t s.self.dir false ∧
    (t.trace ≠ s.trace ↔
      s.self.dir = .output ∧ s.self.olat = true ∧ (s.inst s.cur.side.other).dir = .output ∧
        (s.inst s.cur.side.other).olat = true) ∧
    (s.self.dir = .input → t.line = s.line) ∧
    (s.self.dir = .output → s.line = .high → t.line ≠ .contended →
      t.line = .low ∧ ∀ d, (s.inst d).edgeEn = true → (t.inst d).edgePend = true) ∧
    (s.self.olat = false → t = s)

/-- R238: RDLVL writes 0x00 or 0x01 to RES, the line's level where the line is not contended and there is no noise (so a
driving port reads its own level), and changes nothing else but the draw it took. -/
def Obligations.RdlvlEffect : Prop :=
  encode .rdlvl = [0x05] ∧
  ∀ s : State, ∃ (t : State) (v : Byte), exec .rdlvl s = .next t ∧ (v = 0x00 ∨ v = 0x01) ∧
    (s.line ≠ .contended → s.params.noise = .none → (v = 0x01 ↔ s.line = .high)) ∧
    (s.line ≠ .contended → s.params.noise = .none → s.self.dir = .output → (v = 0x01 ↔ s.self.olat = true)) ∧
    t = { s.setSelf { s.self with res := some v } with env := t.env }

/-! ### Timing (41_timing.md) -/

/-- R262, R182: DELAY puts the issuing agent to sleep for the value of the parameter that its selector names, one of the
ten of R182 with its nominal value there, and at most `J_DELAY` more, and changes no port state and no register; a selector of 10 to 15, or bits 7:4 of
the operand byte that are not 0, are refused with BAD_OPERAND. -/
def Obligations.DelayEffect : Prop :=
  (∀ p : Params,
    param p 0 = some p.tReq ∧ param p 1 = some p.tSettle ∧ param p 2 = some p.tSync ∧ param p 3 = some p.tHalf ∧
    param p 4 = some p.tCell ∧ param p 5 = some p.tFudge ∧ param p 6 = some (p.tCell + p.tFudge) ∧
    param p 7 = some p.tRxBit ∧ param p 8 = some p.tDrain ∧ param p 9 = some p.tRel ∧
    ∀ sel : BitVec 4, 10 ≤ sel.toNat → param p sel = none) ∧
  (∀ (jd jp lm we ml iw : Nat) (a b : Bool),
    let p := Config.nominalWith jd jp lm we ml iw a b
    p.tReq = 1000 ∧ p.tSettle = 24000 ∧ p.tSync = 48000 ∧ p.tHalf = 24000 ∧ p.tCell = 48000 ∧ p.tFudge = 2000 ∧
    p.tCell + p.tFudge = 50000 ∧ p.tRxBit = 50000 ∧ p.tDrain = 50000 ∧ p.tRel = 1000) ∧
  (∀ sel : BitVec 4, encode (.delay sel) = [0x10, sel.setWidth 8]) ∧
  (∀ x : Byte, 10 ≤ x.toNat → decodeSequence [0x10, x] = .badOperand 0x10 []) ∧
  ∀ (s : State) (sel : BitVec 4),
    (sel.toNat < 10 →
      ∃ (d u : Nat) (t : State), param s.params sel = some d ∧ exec (.delay sel) s = .next t ∧
        s.now + d ≤ u ∧ u ≤ s.now + d + s.params.jDelay ∧
        t = { s.setCtx s.cur { s.ctx s.cur with status := .sleeping u } with env := t.env }) ∧
    (10 ≤ sel.toNat → ∃ t, exec (.delay sel) s = .next t ∧ Refused s t .badOperand)

/-- R262, R627: on a controller that runs alone a DELAY ends after at least its parameter and at most `J_DELAY` more. -/
def Obligations.DelayCompletes : Prop :=
  ∀ (s : State) (d : Side) (sel : BitVec 4) (v : Nat), s.Alone d → s.Issuing d → param s.params sel = some v →
    Completes (.delay sel) s fun t => s.now + v ≤ t.now ∧ t.now ≤ s.now + v + s.params.jDelay

/-- R264: a poll that reads 1 ends WAITH with nothing changed and no time passed; a poll that reads 0 is repeated after
a gap in `[1, J_POLL]`. A poll of a line that is not contended reads its level, one of a contended line reads ENV's next
draw. -/
def Obligations.WaithEffect : Prop :=
  (∀ s : State, s.line = .high → exec .waith s = .next s) ∧
  (∀ s : State, s.line = .low → 1 ≤ s.params.jPoll →
    ∃ (t : State) (u : Nat), exec .waith s = .next t ∧ s.now + 1 ≤ u ∧ u ≤ s.now + s.params.jPoll ∧
      t = { s.setCtx s.cur
              { s.ctx s.cur with status := .polling u, code := .op .waith :: (s.ctx s.cur).code } with
            env := t.env }) ∧
  (∀ s : State, s.line = .contended → drawBit s.drawn = true →
    ∃ t, exec .waith s = .next t ∧ t = { s with env := t.env }) ∧
  (∀ s : State, s.line = .contended → drawBit s.drawn = false → 1 ≤ s.params.jPoll →
    ∃ (t : State) (u : Nat), exec .waith s = .next t ∧ s.now + 1 ≤ u ∧ u ≤ s.now + s.params.jPoll ∧
      t = { s.setCtx s.cur
              { s.ctx s.cur with status := .polling u, code := .op .waith :: (s.ctx s.cur).code } with
            env := t.env })

/-- R265: WAITH has no deadline. While a partner that does nothing holds the line low, the polling agent is still
polling after any number of steps; it neither faults nor stops. -/
def Obligations.WaithNeverTimesOut : Prop :=
  ∀ (s : State) (d : Side) (u : Nat) (rest : List Micro), s.Alone d → s.line = .low →
    (s.inst d).ordinary.status = .polling u → (s.inst d).ordinary.code = .op .waith :: rest →
    ∀ n, ∃ (t : State) (v : Nat), Host.Core.run Sys2Proof.core n s = .next t ∧ t.line = .low ∧
      (t.inst d).ordinary.status = .polling v ∧ (t.inst d).ordinary.code = .op .waith :: rest ∧
      (t.inst d).faults = (s.inst d).faults

/-! ### Byte framer and synchronization (42_framer.md, 43_sync.md) -/

/-- R187, R290, R291, R320 to R323: each composite operation is its expansion: the issuing agent has those steps to take
before what it had to take, and nothing else changed; RDBIT's sample and shift are its first step, and its delay is the
rest. That `exec` loads the expansion, and RDBIT takes its first step with it, is the model's choice (log entry 6). -/
def Obligations.CompositeExpansions : Prop :=
  ∀ s : State,
    (let loaded := fun (ms : List Micro) =>
      s.setCtx s.cur { s.ctx s.cur with status := .ready, code := ms ++ (s.ctx s.cur).code }
    exec .ssync s = .next (loaded [.op .drvl, .op .setout, .op (.delay 2), .op .drvh, .op (.delay 9)]) ∧
    exec .rsync s = .next (loaded [.op .setin, .op .waith, .op (.delay 3)]) ∧
    (∀ b, exec (.wrbit b) s =
      .next (loaded [.op (if b then .drvh else .drvl), .op (.delay 4), .op (.delay 5)])) ∧
    (∀ v : Byte, exec (.wrbyte v) s =
      .next (loaded
        ([.op (if v.getLsbD 7 then .drvh else .drvl), .op .setout,
          .op (.wrbit (v.getLsbD 7)), .op (.wrbit (v.getLsbD 6)), .op (.wrbit (v.getLsbD 5)),
          .op (.wrbit (v.getLsbD 4)), .op (.wrbit (v.getLsbD 3)), .op (.wrbit (v.getLsbD 2)),
          .op (.wrbit (v.getLsbD 1)), .op (.wrbit (v.getLsbD 0))]))) ∧
    exec .rdbyte s =
      .next (loaded
        [.op .setin, .accClear, .op .rdbit, .op .rdbit, .op .rdbit, .op .rdbit, .op .rdbit, .op .rdbit,
         .op .rdbit, .op .rdbit, .accToRes]) ∧
    (∀ a : Byte, s.self.acc = some a →
      exec .rdbit s =
        .next
          (let s1 := s.afterSample.setSelf
            { s.self with acc := some (BitVec.ofNat 8 (2 * a.toNat + s.sample.toNat)) }
          s1.setCtx s.cur { s.ctx s.cur with status := .ready, code := .op (.delay 7) :: (s.ctx s.cur).code })))

/-- R321: RDBIT shifts a sampled bit into ACC, bit 7 out, and then waits `T_RXBIT`. -/
def Obligations.RdbitEffect : Prop :=
  ∀ (s : State) (a : Byte), s.self.acc = some a →
    ∃ (t : State) (b : Bool), exec .rdbit s = .next t ∧
      (s.line ≠ .contended → s.params.noise = .none → (b = true ↔ s.line = .high)) ∧
      t.self.acc = some (BitVec.ofNat 8 (2 * a.toNat + b.toNat)) ∧
      t = { s.setSelf
              ({ s.self with acc := t.self.acc }.setCtx s.cur.kind
                { s.ctx s.cur with status := .ready, code := .op (.delay 7) :: (s.ctx s.cur).code }) with
            env := t.env }

/-- R320, R627: WRBIT leaves the bit in the latch and the direction as it was, after `T_BIT` and two draws. -/
def Obligations.WrbitCompletes : Prop :=
  ∀ (s : State) (d : Side) (b : Bool), s.Alone d → s.Issuing d →
    Completes (.wrbit b) s fun t =>
      t.self.dir = s.self.dir ∧ t.self.olat = b ∧
      s.now + s.params.tBit ≤ t.now ∧ t.now ≤ s.now + s.params.tBit + 2 * s.params.jDelay

/-- R321, R627: RDBIT of a written ACC ends after `T_RXBIT` and one draw, with the sampled bit in `ACC[0]`. -/
def Obligations.RdbitCompletes : Prop :=
  ∀ (s : State) (d : Side) (a : Byte), s.Alone d → s.Issuing d → s.self.acc = some a → s.params.noise = .none →
    s.line ≠ .contended →
    Completes .rdbit s fun t =>
      t.self.acc = some (BitVec.ofNat 8 (2 * a.toNat + if s.line = .high then 1 else 0)) ∧
      s.now + s.params.tRxBit ≤ t.now ∧ t.now ≤ s.now + s.params.tRxBit + s.params.jDelay

/-- R322, R627: WRBYTE leaves `OLAT = v[0]` and `DIR = 1`, after 8 `T_BIT` and sixteen draws. -/
def Obligations.WrbyteCompletes : Prop :=
  ∀ (s : State) (d : Side) (v : Byte), s.Alone d → s.Issuing d →
    Completes (.wrbyte v) s fun t =>
      t.self.dir = .output ∧ t.self.olat = v.getLsbD 0 ∧
      s.now + 8 * s.params.tBit ≤ t.now ∧ t.now ≤ s.now + 8 * s.params.tBit + 16 * s.params.jDelay

/-- R322, R172, R126: the waveform of WRBYTE without jitter, the partner an input: the cell of bit `7 - k` begins
`k × T_BIT` after the start, with the line at that bit, and holds it through `T_CELL` and `T_FUDGE`. -/
def Obligations.WrbyteWaveform : Prop :=
  ∀ (s : State) (d : Side) (v : Byte) (k : Nat), s.Alone d → s.Issuing d → (s.inst d.other).dir = .input →
    s.params.jDelay = 0 → k < 8 →
    ∃ s1 t u, exec (.wrbyte v) s = .next s1 ∧ Reaches s1 t ∧ Reaches t u ∧
      t.now = s.now + k * s.params.tBit ∧ (t.ctx s.cur).status = .sleeping (t.now + s.params.tCell) ∧
      (t.line = .high ↔ v.getLsbD (7 - k) = true) ∧ t.line ≠ .contended ∧
      u.now = t.now + s.params.tCell ∧ (u.ctx s.cur).status = .sleeping (u.now + s.params.tFudge) ∧
      u.line = t.line

/-- R324, R321, R323: the deserializer's value. Under noise the eight samples are the draws `b0` to `b7`, each followed
by the draw of its delay; RDBYTE leaves `b0·2^7 + … + b7·2^0` in RES and in ACC, whatever ACC held. -/
def Obligations.DeserializerValue : Prop :=
  ∀ (s : State) (d : Side) (b0 b1 b2 b3 b4 b5 b6 b7 : Bool) (j0 j1 j2 j3 j4 j5 j6 j7 : Nat) (more : List Nat),
    s.Alone d → s.Issuing d → s.params.noise = .arbitrary →
    (s.inst .I).edgeEn = false → (s.inst .T).edgeEn = false →
    s.env.tape =
      [b0.toNat, j0, b1.toNat, j1, b2.toNat, j2, b3.toNat, j3, b4.toNat, j4, b5.toNat, j5, b6.toNat, j6,
       b7.toNat, j7] ++ more →
    Completes .rdbyte s fun t =>
      t.self.res =
        some (BitVec.ofNat 8
          (b0.toNat * 2 ^ 7 + b1.toNat * 2 ^ 6 + b2.toNat * 2 ^ 5 + b3.toNat * 2 ^ 4 + b4.toNat * 2 ^ 3 +
            b5.toNat * 2 ^ 2 + b6.toNat * 2 ^ 1 + b7.toNat * 2 ^ 0)) ∧
      t.self.acc = t.self.res ∧ t.self.dir = .input

/-- R323, R232, R627: RDBYTE of a line that stays as the partner holds it reads 0xFF from an undriven or high line and
0x00 from a low one, in 8 `T_RXBIT` and eight draws. -/
def Obligations.RdbyteCompletes : Prop :=
  ∀ (s : State) (d : Side), s.Alone d → s.Issuing d → s.params.noise = .none →
    Completes .rdbyte s fun t =>
      t.self.res =
        some (if (s.inst d.other).dir = .output ∧ (s.inst d.other).olat = false then 0x00 else 0xFF) ∧
      t.self.acc = t.self.res ∧ t.self.dir = .input ∧
      s.now + 8 * s.params.tRxBit ≤ t.now ∧ t.now ≤ s.now + 8 * s.params.tRxBit + 8 * s.params.jDelay

/-- R290, R627: SSYNC leaves `DIR = 1, OLAT = 1` after `T_SYNC + T_REL` and two draws. -/
def Obligations.SsyncCompletes : Prop :=
  ∀ (s : State) (d : Side), s.Alone d → s.Issuing d →
    Completes .ssync s fun t =>
      t.self.dir = .output ∧ t.self.olat = true ∧
      s.now + s.params.tSync + s.params.tRel ≤ t.now ∧
      t.now ≤ s.now + s.params.tSync + s.params.tRel + 2 * s.params.jDelay

/-- R291, R627: RSYNC of a line the partner does not drive low is over after `T_HALF` and one draw: it synchronizes on
nothing. -/
def Obligations.RsyncCompletes : Prop :=
  ∀ (s : State) (d : Side), s.Alone d → s.Issuing d →
    ¬ ((s.inst d.other).dir = .output ∧ (s.inst d.other).olat = false) →
    Completes .rsync s fun t =>
      t.self.dir = .input ∧ s.now + s.params.tHalf ≤ t.now ∧ t.now ≤ s.now + s.params.tHalf + s.params.jDelay

/-! ### Checksum (44_checksum.md) -/

/-- R350 to R354: the checksum operations: the sum modulo 256, the fold with 7, the comparison of all 8 bits; each
changes its one register and nothing else, and one that reads an unwritten register is refused with UNINIT_READ. -/
def Obligations.ChecksumOperations : Prop :=
  encode .ckclr = [0x40] ∧ (∀ v : Byte, encode (.ckadd v) = [0x41, v]) ∧ encode .ckaddr = [0x42] ∧
  encode .ckfold = [0x43] ∧ encode .ckcmp = [0x44] ∧
  ∀ (s : State) (x y : Byte),
    exec .ckclr s = .next (s.setSelf { s.self with sum := some 0x00 }) ∧
    (∀ v : Byte,
      (s.self.sum = some x →
        exec (.ckadd v) s =
          .next (s.setSelf { s.self with sum := some (BitVec.ofNat 8 ((x.toNat + v.toNat) % 256)) })) ∧
      (s.self.sum = none → ∃ t, exec (.ckadd v) s = .next t ∧ Refused s t .uninitRead)) ∧
    (s.self.sum = some x → s.self.res = some y →
      exec .ckaddr s =
        .next (s.setSelf { s.self with sum := some (BitVec.ofNat 8 ((x.toNat + y.toNat) % 256)) })) ∧
    (s.self.sum = none ∨ s.self.res = none → ∃ t, exec .ckaddr s = .next t ∧ Refused s t .uninitRead) ∧
    (s.self.sum = some x →
      exec .ckfold s = .next (s.setSelf { s.self with ck := some (BitVec.ofNat 8 (x.toNat ^^^ 7)) })) ∧
    (s.self.sum = none → ∃ t, exec .ckfold s = .next t ∧ Refused s t .uninitRead) ∧
    (s.self.ck = some x → s.self.res = some y →
      exec .ckcmp s = .next (s.setSelf { s.self with matchFlag := some (x.toNat == y.toNat) })) ∧
    (s.self.ck = none ∨ s.self.res = none → ∃ t, exec .ckcmp s = .next t ∧ Refused s t .uninitRead)

/-- R56, R321: RDBIT with an unwritten ACC is refused with UNINIT_READ, at the step that reads ACC: its sample, and the
draw the sample may take, came before. -/
def Obligations.UnwrittenAccRefused : Prop :=
  ∀ s : State, s.self.acc = none →
    ∃ t, exec .rdbit s = .next t ∧ Refused s.afterSample t .uninitRead ∧ t.self.acc = none ∧ t.line = s.line

/-- R355, R177: CKCLR, then CKADD of each byte, then CKFOLD leaves in CK the sum modulo 256, folded with 7, and no
other register than SUM and CK is written. -/
def Obligations.ChecksumOfBytes : Prop :=
  ∀ (s : State) (bytes : List Byte), ∃ (t : State) (x : Byte),
    execAll ([.ckclr] ++ bytes.map .ckadd ++ [.ckfold]) s = .next t ∧
      x.toNat = (bytes.map BitVec.toNat).sum % 256 ∧
      t = s.setSelf { s.self with sum := some x, ck := some (x ^^^ 0x07) } ∧
      x ^^^ 0x07 = cksum bytes

/-- R357, R358: the validation. With exactly one data byte changed, or with every data byte right and a wrong checksum
byte, CKCMP gives `MATCH = 0`; any change that keeps the sum modulo 256 gives `MATCH = 1`. -/
def Obligations.ValidationDetectsOneByte : Prop :=
  ∀ (s : State) (sent : List Byte),
    (∀ (k : Nat) (v : Byte) (h : k < sent.length), sent[k] ≠ v →
      s.self.ck = some (cksum (sent.set k v)) → s.self.res = some (cksum sent) →
      exec .ckcmp s = .next (s.setSelf { s.self with matchFlag := some false })) ∧
    (∀ c : Byte, c ≠ cksum sent → s.self.ck = some (cksum sent) → s.self.res = some c →
      exec .ckcmp s = .next (s.setSelf { s.self with matchFlag := some false })) ∧
    (∀ received : List Byte,
      (received.map BitVec.toNat).sum % 256 = (sent.map BitVec.toNat).sum % 256 →
      s.self.ck = some (cksum received) → s.self.res = some (cksum sent) →
      exec .ckcmp s = .next (s.setSelf { s.self with matchFlag := some true }))

/-- R356: the sum wraps modulo 256; the checksum does not depend on the order of the bytes; the fold is its own inverse;
the checksum of no bytes is 0x07; a trailing 0x00 does not change it. -/
def Obligations.ChecksumLaws : Prop :=
  (∀ (a : List Byte) (v : Byte), (sumBytes (a ++ [v])).toNat = ((sumBytes a).toNat + v.toNat) % 256) ∧
  (∀ a b : List Byte, a.Perm b → cksum a = cksum b) ∧ (∀ a : List Byte, cksum a ^^^ 0x07 = sumBytes a) ∧
  cksum [] = 0x07 ∧ (∀ a : List Byte, cksum (a ++ [0x00]) = cksum a)

/-! ### Edge detection and interrupts (45_control.md) -/

/-- R381 to R384: EDGEEN and EDGEDIS discard a pending edge (with the model's note of its pulse, log entry 11); IRQOFF
saves and clears `IE`; IRQON restores it, and is refused with UNINIT_READ where IE_SAVED is unwritten. Each changes these
flags and nothing else. -/
def Obligations.EdgeAndMaskOperations : Prop :=
  encode .edgeen = [0x50] ∧ encode .edgedis = [0x51] ∧ encode .irqoff = [0x52] ∧ encode .irqon = [0x53] ∧
  ∀ s : State,
    exec .edgeen s = .next (s.setSelf { s.self with edgeEn := true, edgePend := false, edgeFall := none }) ∧
    exec .edgedis s = .next (s.setSelf { s.self with edgeEn := false, edgePend := false, edgeFall := none }) ∧
    exec .irqoff s = .next (s.setSelf { s.self with ieSaved := some s.self.ie, ie := false }) ∧
    (∀ b, s.self.ieSaved = some b → exec .irqon s = .next (s.setSelf { s.self with ie := b })) ∧
    (s.self.ieSaved = none → ∃ t, exec .irqon s = .next t ∧ Refused s t .uninitRead)

/-- R380, R231: what the detectors latch when a port operation changes the line. A falling edge is pending at every
enabled detector and at no disabled one; a rise latches nothing, and keeps what is pending unless its low pulse was
shorter than `W_EDGE_MIN`; a change into or out of contention, at the end of no such short pulse, latches where a draw of
that detector says so. That the edge is pending at once at the fall and is dropped, if it is, at the rise, and that each
detector has a draw of its own, are the model's choices (log entries 11 and 12). -/
def Obligations.EdgeLatching : Prop :=
  ∀ (s t : State) (i : Instr), i ∈ [Instr.setout, .setin, .drvh, .drvl] → exec i s = .next t →
    (∀ d : Side,
      ((s.inst d).edgeEn = false → (t.inst d).edgePend = (s.inst d).edgePend) ∧
      (s.line = .high → t.line = .low → (s.inst d).edgeEn = true → (t.inst d).edgePend = true) ∧
      (s.line = .low → t.line = .high → (t.inst d).edgePend = true → (s.inst d).edgePend = true) ∧
      (s.line = .low → t.line = .high →
        (∀ t0, (s.inst d).edgeFall = some t0 → t0 + s.params.wEdgeMin ≤ s.now) →
        (t.inst d).edgePend = (s.inst d).edgePend) ∧
      (s.line = t.line → (t.inst d).edgePend = (s.inst d).edgePend)) ∧
    (s.line ≠ t.line → (s.line = .contended ∨ t.line = .contended) →
      (∀ (d : Side) (t0 : Nat), (s.inst d).edgeFall = some t0 → t0 + s.params.wEdgeMin ≤ s.now) →
      (s.instI.edgeEn = true → t.instI.edgePend = (s.instI.edgePend || drawBit s.drawn)) ∧
      (s.instT.edgeEn = true →
        t.instT.edgePend =
          (s.instT.edgePend || drawBit (if s.instI.edgeEn = true then s.afterDraw.drawn else s.drawn))))

/-- R386: delivery, at the instant ENV chose, enters the handler in one step: the latch is cleared, `IN_ISR` set, `IE`
cleared, and TGT is ready at the first step of TGTISR; the partner and the clock are as before. -/
def Obligations.DeliveryEntersHandler : Prop :=
  ∀ (s : State) (d : Side) (u : Nat), s.pick = some (.edge d) → (s.inst d).role = .target →
    (s.inst d).edgePend = true → (s.inst d).ie = true → (s.inst d).inIsr = false →
    (s.inst d).interrupt.status = .idle → (s.inst d).deliverAt = some u →
    ∃ t, step s = .next t ∧
      t.inst d =
        { s.inst d with
          edgePend := false, edgeFall := none, deliverAt := none, inIsr := true, ie := false
          interrupt := { status := .ready, code := [.op .tgtisr], opcode := 0x63 } } ∧
      t.inst d.other = s.inst d.other ∧ t.now = s.now ∧ t.trace = s.trace

/-- R386, R385, R388: the handler is entered in no other way: only from a state with `ROLE = TARGET`, an edge pending,
`IE = 1` and TGT idle. -/
def Obligations.OnlyDeliveryEntersHandler : Prop :=
  ∀ (s t : State) (d : Side), step s = .next t → (s.inst d).inIsr = false → (t.inst d).inIsr = true →
    (s.inst d).role = .target ∧ (s.inst d).edgePend = true ∧ (s.inst d).ie = true ∧
      (s.inst d).interrupt.status = .idle

/-- R387, R561: the return is one step: `IN_ISR` cleared, `IE` set, TGT idle; a WAITH the handler interrupted polls at
once, everything else of the host stays. -/
def Obligations.HandlerReturnEffect : Prop :=
  ∀ s : State, ∃ t, runMicro .handlerReturn s = .next t ∧
    t = s.setSelf
      { s.self with
        inIsr := false, ie := true
        interrupt := { s.self.interrupt with status := .idle, code := [] }
        ordinary := t.self.ordinary } ∧
    t.self.ordinary.code = s.self.ordinary.code ∧ t.self.ordinary.opcode = s.self.ordinary.opcode ∧
    (∀ u, s.self.ordinary.status = .polling u → t.self.ordinary.status = .ready) ∧
    ((∀ u, s.self.ordinary.status ≠ .polling u) → t.self.ordinary.status = s.self.ordinary.status)

/-- R130, R385, R387: while the handler runs, its host is not ready and takes no step: in every step but a reset of that
controller (R612), its sequence and its script stay, but for the resumption at the handler's return, and so do the table
and the bytes the handler sends. -/
def Obligations.HandlerSeesOneCopy : Prop :=
  ∀ (s : State) (d : Side), s.Inv → (s.inst d).inIsr = true →
    s.ready (.context { side := d, kind := .ordinary }) = false ∧
    ∀ t : State, s.pick ≠ some (.reset d) → step s = .next t →
      (t.inst d).script = (s.inst d).script ∧ (t.inst d).table = (s.inst d).table ∧
      (t.inst d).buffers = (s.inst d).buffers ∧
      ((t.inst d).ordinary = (s.inst d).ordinary ∨
        (t.inst d).inIsr = false ∧ (t.inst d).ordinary = (s.inst d).ordinary.resume)

/-! ### The engines (46_initiator.md, 47_target.md) -/

/-- R410: INITI on a fresh instance: the table, no edge detection, the port an output driving high, the role and the
idle state; the registers and the buffers as before (IE_SAVED too, log entry 27); LINE_CONTENTION exactly where the
partner drives 0 and the port did not already drive 1. -/
def Obligations.InitiEffect : Prop :=
  ∀ s : State, s.self.role = .unset →
    ∃ t, exec .initi s = .next t ∧ SameGlobals s t ∧
      SameButEdges (s.inst s.cur.side.other) (t.inst s.cur.side.other) ∧
      t.self =
        { s.self with
          table := some s.self.argTable, edgeEn := false, edgePend := false, edgeFall := none
          olat := true, dir := .output, role := .initiator, st := .iIdle
          faults :=
            if (s.inst s.cur.side.other).dir = .output ∧ (s.inst s.cur.side.other).olat = false ∧
                ¬ (s.self.dir = .output ∧ s.self.olat = true)
            then insertFault .lineContention s.self.faults else s.self.faults } ∧
      (t.trace ≠ s.trace ↔
        (s.inst s.cur.side.other).dir = .output ∧ (s.inst s.cur.side.other).olat = false ∧
          ¬ (s.self.dir = .output ∧ s.self.olat = true))

/-- R460: INITT on a fresh instance that runs alone: the table, the port an input, detection armed with nothing
pending, the role and the armed state, in no time; everything else as before (IE_SAVED too, log entry 27). -/
def Obligations.InittCompletes : Prop :=
  ∀ (s : State) (d : Side), s.Alone d → s.Issuing d → s.self.role = .unset →
    Completes .initt s fun t =>
      t.self =
        { s.self with
          table := some s.self.argTable, dir := .input, edgeEn := true, edgePend := false, edgeFall := none
          role := .target, st := .tArmed } ∧
      SameButEdges (s.inst d.other) (t.inst d.other) ∧ SameGlobals s t ∧ t.trace = s.trace

/-- R185, R410, R460: INITI and INITT on an initialized instance are refused with REINIT. -/
def Obligations.ReinitRefused : Prop :=
  ∀ s : State, s.self.role ≠ .unset →
    (∃ t, exec .initi s = .next t ∧ Refused s t .reinit) ∧ (∃ t, exec .initt s = .next t ∧ Refused s t .reinit)

/-- R411, R412, R185: TXN's checks in their order, then the sequence of R412, loaded with nothing else changed. -/
def Obligations.TxnChecksAndStart : Prop :=
  ∀ s : State,
    (s.self.role = .unset → ∃ t, exec .txn s = .next t ∧ Refused s t .useBeforeInit) ∧
    (s.self.role = .target → ∃ t, exec .txn s = .next t ∧ Refused s t .roleViolation) ∧
    (s.self.role = .initiator → s.self.desc = none → ∃ t, exec .txn s = .next t ∧ Refused s t .noDescriptor) ∧
    (∀ e, s.self.role = .initiator → s.self.desc = some e →
      exec .txn s =
        .next (s.setCtx s.cur
          { s.ctx s.cur with
            status := .ready
            code :=
              [.op .irqoff, .setSt .iReq, .op .setout, .op .drvl, .op (.delay 0), .op .setin, .op (.delay 1),
               .setSt .iPres, .op .rdlvl, .presence,
               .setSt .iSync, .op .rsync, .op .ckclr, .idxClear, .recvLoop,
               .setSt .iRecvCk, .op .rdbyte, .op .rsync, .setSt .iCmp, .op .ckfold, .op .ckcmp, .decideOutcome] ++
              (s.ctx s.cur).code }))

/-- R518, R415, R416, R132: TXN with nobody answering, on a quiet line: it returns NoResponse `T_REQ + T_SETTLE` and two
draws after the call, with every buffer unchanged, the port output-high and `IE` restored. -/
def Obligations.TxnNoResponse : Prop :=
  ∀ (s : State) (d : Side) (e : Descriptor), s.Alone d → s.Issuing d → s.self.role = .initiator →
    s.self.desc = some e → (s.inst d.other).dir = .input → s.params.noise = .none →
    Completes .txn s fun t =>
      t.self.outc = some 0x01 ∧ t.self.dir = .output ∧ t.self.olat = true ∧ t.self.ie = s.self.ie ∧
      t.self.st = .iIdle ∧ t.self.table = s.self.table ∧ t.self.buffers = s.self.buffers ∧ t.line = .high ∧
      t.trace = s.trace ∧
      s.now + s.params.tReq + s.params.tSettle ≤ t.now ∧
      t.now ≤ s.now + s.params.tReq + s.params.tSettle + 2 * s.params.jDelay

/-- R412, R415, R416, R268: TXN of an initiator on a line that nobody else drives, under noise, with the first draws (two
jitters and the presence sample, log entry 5) named: it returns, whatever the other draws. With the sample at 1 the
outcome is NoResponse and no buffer changed; with it at 0 the outcome is Completed exactly if the checksum of the bytes
now in the buffer is the byte received last, else DataError. Either way the port is output-high and `IE` restored. -/
def Obligations.TxnUnderNoise : Prop :=
  ∀ (s : State) (d : Side) (e : Descriptor) (j k : Nat) (p : Bool) (more : List Nat), s.Inv → s.Alone d →
    s.Issuing d → s.self.role = .initiator → s.self.desc = some e →
    (s.self.buffer e.t2i).len < 2 ^ s.params.idxW →
    (s.inst d.other).dir = .input → s.params.noise = .arbitrary →
    (s.inst .I).edgeEn = false → (s.inst .T).edgeEn = false → s.env.tape = j :: k :: p.toNat :: more →
    Completes .txn s fun t =>
      t.self.dir = .output ∧ t.self.olat = true ∧ t.self.ie = s.self.ie ∧ t.self.st = .iIdle ∧ t.line = .high ∧
      t.trace = s.trace ∧
      t.self.table = s.self.table ∧ (∀ n, n ≠ e.t2i → t.self.buffer n = s.self.buffer n) ∧
      (p = true → t.self.outc = some 0x01 ∧ t.self.buffers = s.self.buffers) ∧
      (p = false →
        ∃ c : Byte, (t.self.buffer e.t2i).len = (s.self.buffer e.t2i).len ∧ t.self.res = some c ∧
          t.self.outc = some (if cksum (t.self.buffer e.t2i).bytes = c then 0x00 else 0x02))

/-- R412, R413, R124, R121: the engine's store: the received byte goes to the index IDX of the selected descriptor's t2i
buffer; every other byte of every buffer of the controller stays; an index at or past the length is refused with
BAD_INDEX. -/
def Obligations.EngineStore : Prop :=
  ∀ (s : State) (i : Nat) (v : Byte) (e : Descriptor), s.Inv → s.self.idx = some i → s.self.res = some v →
    s.self.desc = some e →
    (i < (s.self.buffer e.t2i).len →
      ∃ t, runMicro .storeRes s = .next t ∧
        (∀ n k : Nat, t.self.byteAt n k = if n = e.t2i ∧ k = i then some v else s.self.byteAt n k) ∧
        t = s.setSelf { s.self with buffers := t.self.buffers }) ∧
    ((s.self.buffer e.t2i).len ≤ i → ∃ t, runMicro .storeRes s = .next t ∧ Refused s t .badIndex)

/-- R461, R184, R462: TGTISR: in a sequence it is refused with ILLEGAL_OP; entered by delivery it is refused with
NO_DESCRIPTOR where the table is empty, else the sequence of R462 is loaded with nothing else changed. -/
def Obligations.HandlerStart : Prop :=
  ∀ s : State,
    (s.cur.kind = .ordinary → ∃ t, exec .tgtisr s = .next t ∧ Refused s t .illegalOp) ∧
    (s.cur.kind = .interrupt → s.self.desc = none → ∃ t, exec .tgtisr s = .next t ∧ Refused s t .noDescriptor) ∧
    (∀ e, s.cur.kind = .interrupt → s.self.desc = some e →
      exec .tgtisr s =
        .next (s.setCtx s.cur
          { s.ctx s.cur with
            status := .ready
            code :=
              [.setSt .tDisarm, .op .edgedis, .setSt .tAck, .op .ssync, .op .ckclr, .idxClear, .sendLoop,
               .setSt .tSendCk, .op .ckfold, .sendCk, .op .ssync, .setSt .tDrain, .op (.delay 8), .op .setin,
               .setSt .tRearm, .op .edgeen, .setSt .tArmed, .handlerReturn] ++
              (s.ctx s.cur).code }))

/-- R462, R464, R466: the handler, from its entry on, with a partner that does nothing and whose port is an input: it runs
to its return, whatever the draws, in its duration and at most `J_DELAY` for each of its delays, and leaves the port an
input with the latch high, detection armed with nothing pending, `IN_ISR = 0`, `IE = 1`, and in CK the checksum of its
buffer; no fault is recorded and no byte changes. A partner that drives or runs meanwhile (R465) is not covered here. -/
def Obligations.HandlerRunsToReturn : Prop :=
  ∀ (s : State) (d : Side) (e : Descriptor),
    (s.inst .I).resets = [] → (s.inst .T).resets = [] →
    (s.inst .I).deliverAt = none → (s.inst .T).deliverAt = none →
    (s.inst d.other).role ≠ .target → (s.inst d.other).interrupt.status = .idle →
    (s.inst d.other).ordinary.status = .idle → (s.inst d.other).script = [] → (s.inst d.other).dir = .input →
    (s.inst d).inIsr = true →
    (s.inst d).interrupt = { status := .ready, code := [.op .tgtisr], opcode := 0x63 } →
    (s.inst d).desc = some e → ((s.inst d).buffer e.t2i).len < 2 ^ s.params.idxW →
    ∃ t, Reaches s t ∧
      (t.inst d).dir = .input ∧ (t.inst d).olat = true ∧ (t.inst d).edgeEn = true ∧ (t.inst d).edgePend = false ∧
      (t.inst d).inIsr = false ∧ (t.inst d).ie = true ∧ (t.inst d).interrupt.status = .idle ∧
      (t.inst d).st = .tArmed ∧ (t.inst d).ck = some (cksum ((s.inst d).buffer e.t2i).bytes) ∧
      (t.inst d).table = (s.inst d).table ∧ (t.inst d).buffers = (s.inst d).buffers ∧ t.trace = s.trace ∧ t.line = .high ∧
      s.now + handlerTime s.params ((s.inst d).buffer e.t2i).len ≤ t.now ∧
      t.now ≤ s.now + handlerTime s.params ((s.inst d).buffer e.t2i).len + handlerDelays ((s.inst d).buffer e.t2i).len * s.params.jDelay

/-- R629: the host of a target writes one byte of its t2i buffer, and every other byte of its memory stays. That an index
past the length is refused with BAD_INDEX, as the block's own MemWrite is (R121), is the model's choice (log entry 18), and
so is the opcode 0 in its fault record (log entry 15). -/
def Obligations.HostStore : Prop :=
  ∀ (s : State) (d : Side) (time k : Nat) (v : Byte) (items : List HostItem) (e : Descriptor), s.Inv →
    (s.inst d).script = { time := time, move := .store k v } :: items → (s.inst d).role = .target →
    (s.inst d).desc = some e →
    (k < ((s.inst d).buffer e.t2i).len →
      ∃ t, issueHost d s = .next t ∧ t.inst d.other = s.inst d.other ∧
        (t.inst d).script = items ∧
        (∀ n j : Nat, (t.inst d).byteAt n j =
          if n = e.t2i ∧ j = k then some v else (s.inst d).byteAt n j)) ∧
    (((s.inst d).buffer e.t2i).len ≤ k →
      ∃ t, issueHost d s = .next t ∧ Refused (s.issue d 0 items) t .badIndex)

/-! ### The whole machine -/

/-- R66, R610: the state after reset, in the fields the spec gives a value. -/
def Obligations.ResetState : Prop :=
  State.reset.now = 0 ∧ State.reset.line = .high ∧
  ∀ d, (State.reset.inst d).dir = .input ∧ (State.reset.inst d).edgeEn = false ∧
    (State.reset.inst d).edgePend = false ∧ (State.reset.inst d).ieSaved = none ∧
    (State.reset.inst d).inIsr = false ∧ (State.reset.inst d).acc = none ∧ (State.reset.inst d).res = none ∧
    (State.reset.inst d).sum = none ∧ (State.reset.inst d).ck = none ∧ (State.reset.inst d).matchFlag = none ∧
    (State.reset.inst d).idx = none ∧ (State.reset.inst d).outc = none ∧ (State.reset.inst d).role = .unset ∧
    (State.reset.inst d).table = none ∧ (State.reset.inst d).st = .uninit ∧ (State.reset.inst d).faults = [] ∧
    (State.reset.inst d).ordinary.status = .idle ∧ (State.reset.inst d).interrupt.status = .idle

/-- R612: the reset of one controller during a run gives that instance its reset values, ends its host's and its engine's
sequences (both contexts have nothing left to do), makes its port an input, and leaves the partner (but for the edge it
may see) and `NOW` as they were. The model's choices: `IE` takes the same value at every reset (log entry 3); the host
keeps its buffers and the table it passes, and of its moves exactly those not yet due, and a context becomes idle unless
it was halted, in which case it stays so, with opcode 0 (log entry 14). -/
def Obligations.OneControllerReset : Prop :=
  ∀ (s : State) (d : Side), s.pick = some (.reset d) →
    ∃ t, step s = .next t ∧ t.now = s.now ∧ t.trace = s.trace ∧
      SameButEdges (s.inst d.other) (t.inst d.other) ∧
      (∃ olat : Bool, t.inst d =
        { Inst.reset olat (if d = .I then s.params.ieResetI else s.params.ieResetT) with
          ordinary :=
            { status := if (s.inst d).ordinary.status = .halted then .halted else .idle, code := [], opcode := 0 }
          interrupt :=
            { status := if (s.inst d).interrupt.status = .halted then .halted else .idle, code := [], opcode := 0 }
          buffers := (s.inst d).buffers, argTable := (s.inst d).argTable
          script := (s.inst d).script.filter (fun h => decide (s.now < h.time))
          resets := (s.inst d).resets.tail }) ∧
      t.line ≠ .contended

/-- The invariant holds at reset (R66). -/
def Obligations.InvariantAtReset : Prop := State.reset.Inv

/-- R52, R54, R57, R58, R59, R120, R125, R179, R386, R553: every step keeps the invariant: buffers in canonical form (log
entry 16), no longer than MAX_LEN and named by the tables, canonical fault sets, no edge pending without detection, TABLE
with ROLE, no reserved outcome code, IDX within its width, a masked handler that runs only its own sequence, a trace in
the order of time. -/
def Obligations.EveryStepKeepsInvariant : Prop :=
  ∀ s t : State, s.Inv → step s = .next t → t.Inv

/-- R65: `NOW` is 0 at the start and never decreases. -/
def Obligations.NowNeverDecreases : Prop :=
  State.reset.now = 0 ∧ ∀ s t : State, step s = .next t → s.now ≤ t.now

/-- R553, R59: the trace only grows, and no step but a reset of its controller removes a fault. -/
def Obligations.FaultsAreSticky : Prop :=
  ∀ s t : State, step s = .next t →
    (∃ l, t.trace = s.trace ++ l) ∧
    ∀ (d : Side) (c : FaultCode), s.pick ≠ some (.reset d) → c ∈ (s.inst d).faults → c ∈ (t.inst d).faults

/-- R557, R260: a halted agent is never ready and stays halted. That it stays so across a reset of its controller, of which
R557 says nothing, is the model's choice (log entry 14). -/
def Obligations.HaltedStaysHalted : Prop :=
  ∀ (s t : State) (c : ContextId), s.Inv → (s.ctx c).status = .halted →
    s.ready (.context c) = false ∧ (step s = .next t → (t.ctx c).status = .halted)

/-- R55, R64, R63: which zero-time step writes which field of its instance. A step of the model is an operation or one
of the lines of a composite, of TXN, of INITT or of TGTISR that are no operation of their own, since `exec` only loads
these expansions (log entry 6): `accClear` and `accToRes` are RDBYTE's, `idxClear` and `idxNext` TXN's and TGTISR's,
`storeRes` and `setOutcome` TXN's, `setSt` TXN's and TGTISR's, `armTarget` INITT's, `handlerReturn` the return's. -/
def Obligations.OperationsWriteOnlyTheirs : Prop :=
  ∀ (s t : State) (m : Micro), runMicro m s = .next t →
    (t.self.acc ≠ s.self.acc → m = .op .rdbit ∨ m = .accClear) ∧
    (t.self.res ≠ s.self.res → m = .op .rdlvl ∨ m = .accToRes) ∧
    (t.self.sum ≠ s.self.sum → m = .op .ckclr ∨ m = .op .ckaddr ∨ ∃ v, m = .op (.ckadd v)) ∧
    (t.self.ck ≠ s.self.ck → m = .op .ckfold) ∧
    (t.self.matchFlag ≠ s.self.matchFlag → m = .op .ckcmp) ∧
    (t.self.idx ≠ s.self.idx → m = .idxClear ∨ m = .idxNext) ∧
    (t.self.outc ≠ s.self.outc → ∃ o, m = .setOutcome o) ∧
    (t.self.inIsr ≠ s.self.inIsr → m = .handlerReturn) ∧
    (t.self.ie ≠ s.self.ie → m = .op .irqoff ∨ m = .op .irqon ∨ m = .handlerReturn) ∧
    (t.self.ieSaved ≠ s.self.ieSaved → m = .op .irqoff) ∧
    (t.self.edgeEn ≠ s.self.edgeEn →
      m = .op .edgeen ∨ m = .op .edgedis ∨ m = .op .initi ∨ m = .armTarget) ∧
    (t.self.role ≠ s.self.role ∨ t.self.table ≠ s.self.table → m = .op .initi ∨ m = .armTarget) ∧
    (t.self.st ≠ s.self.st → m = .op .initi ∨ m = .armTarget ∨ ∃ st, m = .setSt st) ∧
    (t.self.dir ≠ s.self.dir → m = .op .setout ∨ m = .op .setin ∨ m = .op .initi ∨ m = .op .initt) ∧
    (t.self.olat ≠ s.self.olat → m = .op .drvh ∨ m = .op .drvl ∨ m = .op .initi) ∧
    (t.self.buffers ≠ s.self.buffers → m = .storeRes)

/-- R510, R129, R121, R123, R124: a zero-time step of an instance, which is an operation or a line of an expansion that
`exec` only loads (log entry 6), leaves the partner as it was (its buffers with it), but for the edge its detector may
latch, and changes neither the clock nor the configuration; of the instance's own buffers only TXN's MemWrite, the line
`storeRes`, changes a byte, and that the one at index IDX of `DESC.t2i_buf`; the trace only grows. -/
def Obligations.OperationsLeaveTheRest : Prop :=
  ∀ (s t : State) (m : Micro), runMicro m s = .next t →
    SameGlobals s t ∧ SameButEdges (s.inst s.cur.side.other) (t.inst s.cur.side.other) ∧
    (∀ n k : Nat, t.self.byteAt n k ≠ s.self.byteAt n k →
      m = .storeRes ∧ s.self.idx = some k ∧ ∃ e, s.self.desc = some e ∧ n = e.t2i) ∧
    (∃ l, t.trace = s.trace ++ l)

/-! ### The link (48_link.md) -/

/-- R514: the reductions of TP1 to TP4 at the nominal values, with `W_EDGE_MIN` within the request pulse and every
latency within `LAMBDA_MAX`, and the nominal `G_MIN`. -/
def Obligations.TimingPremiseNominal : Prop :=
  ∀ (jd jp lm we ml iw : Nat) (a b : Bool) (latency : Nat → Prop), we ≤ 1000 → (∀ lam, latency lam → lam ≤ lm) →
    let p := Config.nominalWith jd jp lm we ml iw a b
    (TP1 p ↔ jp ≤ 999) ∧ (TP2 p latency ↔ lm ≤ 24999 ∧ jd ≤ 11499) ∧
    (TP3 p → jd ≤ 1533) ∧ (jd ≤ 1533 → jp + 8 * jd < 27000 → TP3 p) ∧
    (TP4 p → jd ≤ 1352) ∧ (jd ≤ 1352 → jp + 9 * jd ≤ 25000 → TP4 p) ∧
    (TP1 p ∧ TP2 p latency ∧ TP3 p ∧ TP4 p ↔ jd ≤ 1352 ∧ jp ≤ 999 ∧ lm ≤ 24999) ∧ gMin p = 27000 + 2 * jd

/-! ### Receive-sync against a release (43_sync.md) -/

/-- R291, R293, R292, R264: RSYNC while the partner holds the line low and its host drives it high at the instant `r`
(its script, log entry 9), nothing else to happen: WAITH catches the release within `J_POLL`, and RSYNC returns `T_HALF`
and one draw after the poll that catches it. -/
def Obligations.RsyncWaitsForRelease : Prop :=
  ∀ (s : State) (d : Side) (r : Nat),
    (s.setInst d.other { s.inst d.other with script := [] }).Alone d → s.Issuing d → 1 ≤ s.params.jPoll →
    (s.inst d.other).script = [{ time := r, move := .words [0x03] }] → s.now < r →
    (s.inst d.other).dir = .output → (s.inst d.other).olat = false → (s.inst d.other).inIsr = false →
    Completes .rsync s fun t =>
      t.self.dir = .input ∧ r + s.params.tHalf ≤ t.now ∧
      t.now ≤ r + s.params.jPoll + s.params.tHalf + s.params.jDelay
end

