-- ==== Sys2Proof/Laws/Link.lean ====
section
/-! SUPPORT. How a run goes on from a state, that a transaction has one return and one end, and how the conditions of the
functional relation stand to each other. -/

namespace Sys2Proof.Machine

/-! ### The states of a run -/

@[simp] theorem statesFrom_zero (s : State) : statesFrom 0 s = [s] := rfl

theorem statesFrom_next {s t : State} (h : step s = .next t) (n : Nat) :
    statesFrom (n + 1) s = s :: statesFrom n t := by
  simp [statesFrom, h]

theorem statesFrom_stop {s : State} (h : ∀ t, step s ≠ .next t) (n : Nat) : statesFrom n s = [s] := by
  cases n with
  | zero => rfl
  | succ n =>
    unfold statesFrom
    split
    · rename_i t ht
      exact absurd ht (h t)
    · rfl

/-- The list begins with the state itself. -/
theorem statesFrom_eq_cons (n : Nat) (s : State) : ∃ l, statesFrom n s = s :: l := by
  cases n with
  | zero => exact ⟨[], rfl⟩
  | succ n => exact ⟨_, rfl⟩

/-- What follows a state is a run. -/
theorem statesFrom_isRun (n : Nat) (s : State) : IsRun (statesFrom n s) := by
  induction n generalizing s with
  | zero => trivial
  | succ n ih =>
    by_cases h : ∃ t, step s = .next t
    · obtain ⟨t, h⟩ := h
      obtain ⟨l, hl⟩ := statesFrom_eq_cons n t
      have := ih t
      rw [statesFrom_next h, hl]
      exact ⟨h, hl ▸ this⟩
    · rw [statesFrom_stop fun t ht => h ⟨t, ht⟩]
      trivial

/-- More steps only add states. -/
theorem statesFrom_prefix {m n : Nat} (h : m ≤ n) (s : State) : statesFrom m s <+: statesFrom n s := by
  induction m generalizing n s with
  | zero =>
    obtain ⟨l, hl⟩ := statesFrom_eq_cons n s
    exact hl ▸ ⟨l, rfl⟩
  | succ m ih =>
    obtain ⟨k, rfl⟩ : ∃ k, n = k + 1 := ⟨n - 1, by omega⟩
    by_cases hs : ∃ t, step s = .next t
    · obtain ⟨t, hs⟩ := hs
      rw [statesFrom_next hs, statesFrom_next hs]
      exact List.cons_prefix_cons.mpr ⟨rfl, ih (Nat.le_of_succ_le_succ h) t⟩
    · have hs' : ∀ t, step s ≠ .next t := fun t ht => hs ⟨t, ht⟩
      rw [statesFrom_stop hs', statesFrom_stop hs']

theorem Transaction.after_prefix (x : Transaction) {m n : Nat} (h : m ≤ n) : x.after m <+: x.after n := by
  obtain ⟨l, hl⟩ := statesFrom_prefix h x.call
  obtain ⟨k, hk⟩ := statesFrom_eq_cons m x.call
  refine ⟨l, ?_⟩
  unfold Transaction.after
  rw [← hl, hk]
  rfl

/-! ### One return and one end -/

/-- What is found in a list is found in every longer one. -/
theorem find?_of_prefix {p : State → Bool} {l k : List State} {s : State} (h : l <+: k) (hs : l.find? p = some s) :
    k.find? p = some s := by
  obtain ⟨m, rfl⟩ := h
  rw [List.find?_append, hs, Option.some_or]

/-- A search along the states after the call has one answer. -/
theorem Transaction.find?_unique (x : Transaction) (f : List State → List State) {p : State → Bool} {s t : State}
    (hf : ∀ l k, l <+: k → f l <+: f k) (hs : ∃ n, (f (x.after n)).find? p = some s)
    (ht : ∃ n, (f (x.after n)).find? p = some t) : s = t := by
  obtain ⟨m, hm⟩ := hs
  obtain ⟨n, hn⟩ := ht
  have h1 := find?_of_prefix (hf _ _ (x.after_prefix (Nat.le_max_left m n))) hm
  have h2 := find?_of_prefix (hf _ _ (x.after_prefix (Nat.le_max_right m n))) hn
  exact Option.some.inj (h1.symm.trans h2)

theorem dropWhile_prefix (p : State → Bool) : ∀ {l k : List State}, l <+: k → l.dropWhile p <+: k.dropWhile p
  | [], k, _ => List.nil_prefix
  | a :: l, k, h => by
    obtain ⟨m, rfl⟩ := h
    by_cases ha : p a = true
    · simpa [List.dropWhile, ha] using dropWhile_prefix p ⟨m, rfl⟩
    · simp [List.dropWhile, ha]

/-- A transaction returns at most once (R511). -/
theorem Transaction.Returns.unique {x : Transaction} {s t : State} (hs : x.Returns s) (ht : x.Returns t) : s = t :=
  x.find?_unique id (fun _ _ h => h) hs.1 ht.1

/-- A transaction has at most one end for both instances (R630). -/
theorem Transaction.Settles.unique {x : Transaction} {s t : State} (hs : x.Settles s) (ht : x.Settles t) : s = t :=
  x.find?_unique (List.dropWhile fun s => !s.initiatorIdle) (fun _ _ h => dropWhile_prefix _ h) hs.2 ht.2

/-- In the end state for both instances the handler is over. -/
theorem Transaction.Settles.handlerOver {x : Transaction} {t : State} (h : x.Settles t) : t.handlerOver = true :=
  h.2.elim fun _ hn => List.find?_some hn

/-! ### The conditions of the functional relation (R523) -/

/-- A target that responds is not late: TP2 keeps every latency below the sample. -/
theorem Transaction.TargetResponds.not_late {x : Transaction} (h : x.TargetResponds) : ¬ x.Late := by
  rintro ⟨lam, hl, hle⟩
  have := h.1.1 lam hl
  have := h.1.2.1
  omega

/-- There is a target that responds, or none: not both. -/
theorem Transaction.TargetResponds.not_noTarget {x : Transaction} (h : x.TargetResponds) : ¬ x.NoTarget := by
  rintro ⟨hr | he, -⟩
  · exact hr h.2.2.1
  · have := h.2.2.2.2.2.2.1
    simp [he] at this

/-- Under the timing premise, and with no reset, the relation is about the transaction and its premise holds. -/
theorem TP.covered {x : Transaction} (h : TP x) (hr : x.NoReset) : x.Covered ∧ x.TargetResponds ∧ x.Premise := by
  obtain ⟨h1, h2, h3, h4, -, h6, h7, h8⟩ := h
  exact ⟨⟨h8, hr, .inl ⟨h2, h7⟩⟩, ⟨h2, h7⟩, ⟨h1, h2, h3, h4, h6⟩⟩

end Sys2Proof.Machine
end

