-- ==== Sys2Proof/Laws/Memory.lean ====
section
/-! SUPPORT. The laws of the buffers' memory: a read after a write, and the canonical form every write keeps. -/

namespace Sys2Proof.Machine

@[simp] theorem Memory.read_cons (a : Nat) (v : Byte) (m : Memory) (b : Nat) :
    Memory.read ((a, v) :: m) b = if a = b then v else Memory.read m b := rfl

theorem Memory.read_of_above {a : Nat} : ∀ {m : Memory}, Memory.above a m = true → ∀ b ≤ a, Memory.read m b = Memory.blank
  | [], _, _, _ => rfl
  | (k, v) :: m, h, b, hb => by
    simp only [Memory.above, List.all_cons, Bool.and_eq_true, decide_eq_true_eq] at h
    have : k ≠ b := by omega
    simp [this, Memory.read_of_above (m := m) h.2 b hb]

theorem Memory.read_cons' (a : Nat) (v : Byte) (m : Memory) (h : Memory.above a m = true) (b : Nat) :
    Memory.read (Memory.cons a v m) b = if b = a then v else Memory.read m b := by
  unfold Memory.cons
  split
  · rename_i hv
    split
    · rename_i hb
      rw [Memory.read_of_above h b (by omega), hv]
    · rfl
  · simp [eq_comm]

theorem Memory.above_mono {a b : Nat} {m : Memory} (h : Memory.above b m = true) (hab : a ≤ b) :
    Memory.above a m = true := by
  simp only [Memory.above, List.all_eq_true, decide_eq_true_eq] at h ⊢
  intro c hc
  have := h c hc
  omega

/-- The canonical form, cell by cell. -/
theorem Memory.wf_cons {k : Nat} {w : Byte} {m : Memory} :
    Memory.wf ((k, w) :: m) = true ↔ w ≠ Memory.blank ∧ Memory.above k m = true ∧ Memory.wf m = true := by
  simp [Memory.wf, and_assoc]

/-- A read after a write: the byte written at its index, every other byte as before. -/
theorem Memory.read_write : ∀ (m : Memory) (a : Nat) (v : Byte), Memory.wf m = true → ∀ b,
    Memory.read (Memory.write m a v) b = if b = a then v else Memory.read m b
  | [], a, v, _, b => Memory.read_cons' a v [] rfl b
  | (k, w) :: m, a, v, h, b => by
    obtain ⟨hw, ha, hm⟩ := Memory.wf_cons.mp h
    simp only [Memory.write]
    split
    · rename_i hak
      refine Memory.read_cons' a v _ ?_ b
      have := Memory.above_mono ha (Nat.le_of_lt hak)
      simpa [Memory.above, hak] using this
    · split
      · rename_i hak
        subst hak
        rw [Memory.read_cons' a v m ha b, Memory.read_cons]
        by_cases hb : b = a
        · simp [hb]
        · simp [hb, Ne.symm hb]
      · rename_i h1 h2
        rw [Memory.read_cons, Memory.read_cons, Memory.read_write m a v hm b]
        split <;> split <;> first | rfl | omega

theorem Memory.mem_write : ∀ (m : Memory) (a : Nat) (v : Byte) (c : Host.Cell),
    c ∈ Memory.write m a v → c = (a, v) ∨ c ∈ m
  | [], a, v, c => by
    simp only [Memory.write, Memory.cons]
    split <;> simp_all
  | (k, w) :: m, a, v, c => by
    have ih := Memory.mem_write m a v c
    simp only [Memory.write, Memory.cons]
    split
    · split <;> simp_all
    · split
      · split
        · exact fun h => .inr (List.mem_cons_of_mem _ h)
        · intro h
          rcases List.mem_cons.mp h with h | h
          · exact .inl h
          · exact .inr (List.mem_cons_of_mem _ h)
      · simp only [List.mem_cons]
        intro h
        rcases h with h | h
        · exact .inr (.inl h)
        · exact (ih h).imp_right .inr

theorem Memory.read_cons_ne {a b : Nat} (h : b ≠ a) (v : Byte) (m : Memory) :
    Memory.read (Memory.cons a v m) b = Memory.read m b := by
  unfold Memory.cons
  split
  · rfl
  · simp [Memory.read, Ne.symm h]

/-- A write leaves every other byte, whatever form the memory has. -/
theorem Memory.read_write_ne {a b : Nat} (h : b ≠ a) (v : Byte) : ∀ m : Memory,
    Memory.read (Memory.write m a v) b = Memory.read m b
  | [] => Memory.read_cons_ne h v []
  | (k, w) :: m => by
    simp only [Memory.write]
    split
    · exact Memory.read_cons_ne h v _
    · split
      · rename_i hk
        simp [Memory.read_cons_ne h, Memory.read, ← hk, Ne.symm h]
      · simp [Memory.read, Memory.read_write_ne h v m]

theorem Memory.above_iff {a : Nat} {m : Memory} : Memory.above a m = true ↔ ∀ c ∈ m, a < c.1 := by
  simp [Memory.above]

theorem Memory.above_write {m : Memory} {a k : Nat} (v : Byte) (h : Memory.above k m = true) (hk : k < a) :
    Memory.above k (Memory.write m a v) = true := by
  refine Memory.above_iff.mpr fun c hc => ?_
  rcases Memory.mem_write _ _ _ _ hc with rfl | hc
  · exact hk
  · exact Memory.above_iff.mp h c hc

/-- Every write keeps the canonical form. -/
theorem Memory.wf_write : ∀ (m : Memory) (a : Nat) (v : Byte), Memory.wf m = true → Memory.wf (Memory.write m a v) = true
  | [], a, v, _ => by
    simp only [Memory.write, Memory.cons]
    split <;> simp_all [Memory.wf, Memory.above]
  | (k, w) :: m, a, v, h => by
    obtain ⟨hw, ha, hm⟩ := Memory.wf_cons.mp h
    simp only [Memory.write, Memory.cons]
    split
    · rename_i hak
      split
      · exact h
      · refine Memory.wf_cons.mpr ⟨by assumption, ?_, h⟩
        have := Memory.above_mono ha (Nat.le_of_lt hak)
        simpa [Memory.above, hak] using this
    · split
      · rename_i hak
        subst hak
        split
        · exact hm
        · exact Memory.wf_cons.mpr ⟨by assumption, ha, hm⟩
      · refine Memory.wf_cons.mpr ⟨hw, Memory.above_write v ha (by omega), Memory.wf_write m a v hm⟩

/-! ### Buffers and tables -/

theorem Buffer.wf_iff {b : Buffer} : b.wf = true ↔ Memory.wf b.mem = true ∧ ∀ c ∈ b.mem, c.1 < b.len := by
  simp [Buffer.wf]

/-- A buffer write keeps the length and the canonical form, and changes the one byte. -/
theorem Buffer.write_spec {b b' : Buffer} {i : Nat} {v : Byte} (h : b.write i v = some b') :
    i < b.len ∧ b'.len = b.len ∧ b'.mem = b.mem.write i v := by
  unfold Buffer.write at h
  split at h
  · cases h
    exact ⟨by assumption, rfl, rfl⟩
  · cases h

theorem Buffer.wf_write {b b' : Buffer} {i : Nat} {v : Byte} (h : b.write i v = some b') (hb : b.wf = true) :
    b'.wf = true := by
  obtain ⟨hi, hl, hm⟩ := Buffer.write_spec h
  obtain ⟨h1, h2⟩ := Buffer.wf_iff.mp hb
  refine Buffer.wf_iff.mpr ⟨hm ▸ Memory.wf_write _ _ _ h1, fun c hc => ?_⟩
  rw [hm] at hc
  rcases Memory.mem_write _ _ _ _ hc with rfl | hc
  · simpa [hl] using hi
  · simpa [hl] using h2 c hc

theorem Buffer.read_write {b b' : Buffer} {i : Nat} {v : Byte} (h : b.write i v = some b') (hb : b.wf = true) (k : Nat) :
    b'.read k = if k = i then some v else b.read k := by
  obtain ⟨hi, hl, hm⟩ := Buffer.write_spec h
  unfold Buffer.read
  rw [hl, hm, Memory.read_write _ _ _ (Buffer.wf_iff.mp hb).1]
  by_cases hk : k = i
  · simp [hk, hi]
  · simp [hk]

/-- A write of a buffer leaves every other byte of it. -/
theorem Buffer.read_write_ne {x y : Buffer} {i k : Nat} {v : Byte} (h : x.write i v = some y) (hk : k ≠ i) :
    y.read k = x.read k := by
  unfold Buffer.write at h
  split at h
  · cases h
    simp [Buffer.read, Memory.read_write_ne hk]
  · cases h

/-- The selected descriptor is the head of the table (R58). -/
theorem Inst.desc_eq_some {i : Inst} {d : Descriptor} : i.desc = some d ↔ ∃ ds, i.table = some (d :: ds) := by
  unfold Inst.desc
  cases h : i.table with
  | none => simp
  | some t => cases t <;> simp

theorem Buffer.legal_iff {p : Params} {b : Buffer} : b.legal p = true ↔ b.wf = true ∧ b.len ≤ p.maxLen := by
  simp [Buffer.legal]

/-- A write keeps a buffer legal. -/
theorem Buffer.legal_write {p : Params} {b b' : Buffer} {i : Nat} {v : Byte} (h : b.write i v = some b')
    (hb : b.legal p = true) : b'.legal p = true := by
  rw [Buffer.legal_iff] at hb ⊢
  exact ⟨Buffer.wf_write h hb.1, (Buffer.write_spec h).2.1 ▸ hb.2⟩

/-- A buffer that can be written is there. -/
theorem Inst.lt_of_write {i : Inst} {n k : Nat} {v : Byte} {b : Buffer} (h : (i.buffer n).write k v = some b) :
    n < i.buffers.length := by
  by_contra hn
  have hk := (Buffer.write_spec h).1
  simp [Inst.buffer, List.getElem?_eq_none (Nat.le_of_not_lt hn)] at hk

theorem Inst.buffer_setBuffer {i : Inst} {n : Nat} (x : Buffer) (h : n < i.buffers.length) (m : Nat) :
    (i.setBuffer n x).buffer m = if m = n then x else i.buffer m := by
  by_cases hm : m = n
  · subst hm
    simp [Inst.buffer, Inst.setBuffer, h]
  · simp [Inst.buffer, Inst.setBuffer, List.getElem?_set_ne (Ne.symm hm), hm]

/-- Every buffer an instance can name is canonical where those of its memory are. -/
theorem Inst.buffer_wf {p : Params} {i : Inst} (h : ∀ b ∈ i.buffers, b.legal p = true) (n : Nat) :
    (i.buffer n).wf = true := by
  by_cases hn : n < i.buffers.length
  · simpa [Inst.buffer, List.getD_eq_getElem?_getD, hn] using
      (Buffer.legal_iff.mp (h _ (List.getElem_mem hn))).1
  · simp [Inst.buffer, List.getElem?_eq_none (Nat.le_of_not_lt hn), Buffer.wf, Memory.wf]

/-- After a write of one byte, exactly that byte of the controller's memory is new (R121). -/
theorem Inst.byteAt_setBuffer {i : Inst} {n k : Nat} {v : Byte} {x : Buffer} (h : (i.buffer n).write k v = some x)
    (hw : (i.buffer n).wf = true) (m j : Nat) :
    (i.setBuffer n x).byteAt m j = if m = n ∧ j = k then some v else i.byteAt m j := by
  unfold Inst.byteAt
  rw [Inst.buffer_setBuffer x (Inst.lt_of_write h)]
  by_cases hm : m = n
  · subst hm
    simp [Buffer.read_write h hw]
  · simp [hm]

/-- A write keeps every buffer of the controller's memory legal. -/
theorem Inst.legal_setBuffer {p : Params} {i : Inst} {n k : Nat} {v : Byte} {x : Buffer}
    (h : (i.buffer n).write k v = some x) (hb : ∀ b ∈ i.buffers, b.legal p = true) :
    ∀ b ∈ (i.setBuffer n x).buffers, b.legal p = true := by
  have hn := Inst.lt_of_write h
  intro b hm
  rcases List.mem_or_eq_of_mem_set hm with hm | rfl
  · exact hb b hm
  · refine Buffer.legal_write h ?_
    simpa [Inst.buffer, List.getD_eq_getElem?_getD, hn] using hb _ (List.getElem_mem hn)

end Sys2Proof.Machine
end

