-- ==== Sys2Proof/Laws/State.lean ====
section
/-! SUPPORT. What each update of the state leaves in each field: one lemma per field per update. -/

namespace Sys2Proof.Machine

/-! ### Instances -/

@[simp] theorem Side.other_other (d : Side) : d.other.other = d := by cases d <;> rfl
@[simp] theorem Side.other_ne (d : Side) : d.other ≠ d := by cases d <;> decide
@[simp] theorem Side.ne_other (d : Side) : d ≠ d.other := by cases d <;> decide
theorem Side.eq_other_of_ne {d e : Side} (h : e ≠ d) : e = d.other := by cases d <;> cases e <;> simp_all [Side.other]

@[simp] theorem State.inst_setInst (s : State) (d : Side) (i : Inst) : (s.setInst d i).inst d = i := by
  cases d <;> rfl
theorem State.inst_setInst_ne (s : State) {d e : Side} (i : Inst) (h : e ≠ d) :
    (s.setInst d i).inst e = s.inst e := by
  cases d <;> cases e <;> first | rfl | exact absurd rfl h
@[simp] theorem State.inst_other_setInst (s : State) (d : Side) (i : Inst) :
    (s.setInst d i).inst d.other = s.inst d.other := by cases d <;> rfl
@[simp] theorem State.setInst_inst (s : State) (d : Side) : s.setInst d (s.inst d) = s := by cases d <;> rfl
@[simp] theorem State.setInst_setInst (s : State) (d : Side) (i j : Inst) :
    (s.setInst d i).setInst d j = s.setInst d j := by cases d <;> rfl
theorem State.ext_inst {s t : State} (h : ∀ d, t.inst d = s.inst d) (hn : t.now = s.now) (ht : t.trace = s.trace)
    (hp : t.params = s.params) (he : t.env = s.env) (hc : t.cur = s.cur) : t = s := by
  have h1 := h .I
  have h2 := h .T
  cases s
  cases t
  simp_all [State.inst]

/-! ### Contexts -/

@[simp] theorem Inst.ctx_setCtx (i : Inst) (k : ContextKind) (x : Context) : (i.setCtx k x).ctx k = x := by
  cases k <;> rfl
theorem Inst.ctx_setCtx_ne (i : Inst) {k l : ContextKind} (x : Context) (h : l ≠ k) :
    (i.setCtx k x).ctx l = i.ctx l := by
  cases k <;> cases l <;> first | rfl | exact absurd rfl h
@[simp] theorem Inst.setCtx_setCtx (i : Inst) (k : ContextKind) (x y : Context) :
    (i.setCtx k x).setCtx k y = i.setCtx k y := by cases k <;> rfl
@[simp] theorem State.ctx_setCtx (s : State) (c : ContextId) (x : Context) : (s.setCtx c x).ctx c = x := by
  simp [State.ctx, State.setCtx]
theorem State.ctx_setCtx_ne (s : State) {c e : ContextId} (x : Context) (h : e ≠ c) :
    (s.setCtx c x).ctx e = s.ctx e := by
  obtain ⟨cs, ck⟩ := c
  obtain ⟨es, ek⟩ := e
  cases cs <;> cases es <;> cases ck <;> cases ek <;> first | rfl | exact absurd rfl h

@[simp] theorem Inst.setCtx_dir (i : Inst) (k : ContextKind) (x : Context) : (i.setCtx k x).dir = i.dir := by
  cases k <;> rfl
@[simp] theorem Inst.setCtx_olat (i : Inst) (k : ContextKind) (x : Context) : (i.setCtx k x).olat = i.olat := by
  cases k <;> rfl
@[simp] theorem Inst.setCtx_edgeEn (i : Inst) (k : ContextKind) (x : Context) : (i.setCtx k x).edgeEn = i.edgeEn := by
  cases k <;> rfl
@[simp] theorem Inst.setCtx_edgePend (i : Inst) (k : ContextKind) (x : Context) : (i.setCtx k x).edgePend = i.edgePend := by
  cases k <;> rfl
@[simp] theorem Inst.setCtx_ie (i : Inst) (k : ContextKind) (x : Context) : (i.setCtx k x).ie = i.ie := by
  cases k <;> rfl
@[simp] theorem Inst.setCtx_ieSaved (i : Inst) (k : ContextKind) (x : Context) : (i.setCtx k x).ieSaved = i.ieSaved := by
  cases k <;> rfl
@[simp] theorem Inst.setCtx_inIsr (i : Inst) (k : ContextKind) (x : Context) : (i.setCtx k x).inIsr = i.inIsr := by
  cases k <;> rfl
@[simp] theorem Inst.setCtx_acc (i : Inst) (k : ContextKind) (x : Context) : (i.setCtx k x).acc = i.acc := by
  cases k <;> rfl
@[simp] theorem Inst.setCtx_res (i : Inst) (k : ContextKind) (x : Context) : (i.setCtx k x).res = i.res := by
  cases k <;> rfl
@[simp] theorem Inst.setCtx_sum (i : Inst) (k : ContextKind) (x : Context) : (i.setCtx k x).sum = i.sum := by
  cases k <;> rfl
@[simp] theorem Inst.setCtx_ck (i : Inst) (k : ContextKind) (x : Context) : (i.setCtx k x).ck = i.ck := by
  cases k <;> rfl
@[simp] theorem Inst.setCtx_matchFlag (i : Inst) (k : ContextKind) (x : Context) : (i.setCtx k x).matchFlag = i.matchFlag := by
  cases k <;> rfl
@[simp] theorem Inst.setCtx_idx (i : Inst) (k : ContextKind) (x : Context) : (i.setCtx k x).idx = i.idx := by
  cases k <;> rfl
@[simp] theorem Inst.setCtx_outc (i : Inst) (k : ContextKind) (x : Context) : (i.setCtx k x).outc = i.outc := by
  cases k <;> rfl
@[simp] theorem Inst.setCtx_role (i : Inst) (k : ContextKind) (x : Context) : (i.setCtx k x).role = i.role := by
  cases k <;> rfl
@[simp] theorem Inst.setCtx_table (i : Inst) (k : ContextKind) (x : Context) : (i.setCtx k x).table = i.table := by
  cases k <;> rfl
@[simp] theorem Inst.setCtx_st (i : Inst) (k : ContextKind) (x : Context) : (i.setCtx k x).st = i.st := by
  cases k <;> rfl
@[simp] theorem Inst.setCtx_faults (i : Inst) (k : ContextKind) (x : Context) : (i.setCtx k x).faults = i.faults := by
  cases k <;> rfl
@[simp] theorem Inst.setCtx_edgeFall (i : Inst) (k : ContextKind) (x : Context) : (i.setCtx k x).edgeFall = i.edgeFall := by
  cases k <;> rfl
@[simp] theorem Inst.setCtx_deliverAt (i : Inst) (k : ContextKind) (x : Context) : (i.setCtx k x).deliverAt = i.deliverAt := by
  cases k <;> rfl
@[simp] theorem Inst.setCtx_buffers (i : Inst) (k : ContextKind) (x : Context) : (i.setCtx k x).buffers = i.buffers := by
  cases k <;> rfl
@[simp] theorem Inst.setCtx_argTable (i : Inst) (k : ContextKind) (x : Context) : (i.setCtx k x).argTable = i.argTable := by
  cases k <;> rfl
@[simp] theorem Inst.setCtx_script (i : Inst) (k : ContextKind) (x : Context) : (i.setCtx k x).script = i.script := by
  cases k <;> rfl
@[simp] theorem Inst.setCtx_resets (i : Inst) (k : ContextKind) (x : Context) : (i.setCtx k x).resets = i.resets := by
  cases k <;> rfl
@[simp] theorem Inst.setCtx_desc (i : Inst) (k : ContextKind) (x : Context) : (i.setCtx k x).desc = i.desc := by
  cases k <;> rfl
@[simp] theorem Inst.setCtx_buffer (i : Inst) (k : ContextKind) (x : Context) (b : Nat) :
    (i.setCtx k x).buffer b = i.buffer b := by cases k <;> rfl
@[simp] theorem Inst.setCtx_byteAt (i : Inst) (k : ContextKind) (x : Context) (b j : Nat) :
    (i.setCtx k x).byteAt b j = i.byteAt b j := by cases k <;> rfl

/-! ### The buffers: replacing one changes nothing else of an instance -/

@[simp] theorem Inst.setBuffer_buffers (i : Inst) (b : Nat) (x : Buffer) :
    (i.setBuffer b x).buffers = i.buffers.set b x := rfl
@[simp] theorem Inst.setBuffer_dir (i : Inst) (b : Nat) (x : Buffer) : (i.setBuffer b x).dir = i.dir := rfl
@[simp] theorem Inst.setBuffer_olat (i : Inst) (b : Nat) (x : Buffer) : (i.setBuffer b x).olat = i.olat := rfl
@[simp] theorem Inst.setBuffer_edgeEn (i : Inst) (b : Nat) (x : Buffer) : (i.setBuffer b x).edgeEn = i.edgeEn := rfl
@[simp] theorem Inst.setBuffer_edgePend (i : Inst) (b : Nat) (x : Buffer) : (i.setBuffer b x).edgePend = i.edgePend := rfl
@[simp] theorem Inst.setBuffer_ie (i : Inst) (b : Nat) (x : Buffer) : (i.setBuffer b x).ie = i.ie := rfl
@[simp] theorem Inst.setBuffer_ieSaved (i : Inst) (b : Nat) (x : Buffer) : (i.setBuffer b x).ieSaved = i.ieSaved := rfl
@[simp] theorem Inst.setBuffer_inIsr (i : Inst) (b : Nat) (x : Buffer) : (i.setBuffer b x).inIsr = i.inIsr := rfl
@[simp] theorem Inst.setBuffer_acc (i : Inst) (b : Nat) (x : Buffer) : (i.setBuffer b x).acc = i.acc := rfl
@[simp] theorem Inst.setBuffer_res (i : Inst) (b : Nat) (x : Buffer) : (i.setBuffer b x).res = i.res := rfl
@[simp] theorem Inst.setBuffer_sum (i : Inst) (b : Nat) (x : Buffer) : (i.setBuffer b x).sum = i.sum := rfl
@[simp] theorem Inst.setBuffer_ck (i : Inst) (b : Nat) (x : Buffer) : (i.setBuffer b x).ck = i.ck := rfl
@[simp] theorem Inst.setBuffer_matchFlag (i : Inst) (b : Nat) (x : Buffer) : (i.setBuffer b x).matchFlag = i.matchFlag := rfl
@[simp] theorem Inst.setBuffer_idx (i : Inst) (b : Nat) (x : Buffer) : (i.setBuffer b x).idx = i.idx := rfl
@[simp] theorem Inst.setBuffer_outc (i : Inst) (b : Nat) (x : Buffer) : (i.setBuffer b x).outc = i.outc := rfl
@[simp] theorem Inst.setBuffer_role (i : Inst) (b : Nat) (x : Buffer) : (i.setBuffer b x).role = i.role := rfl
@[simp] theorem Inst.setBuffer_table (i : Inst) (b : Nat) (x : Buffer) : (i.setBuffer b x).table = i.table := rfl
@[simp] theorem Inst.setBuffer_st (i : Inst) (b : Nat) (x : Buffer) : (i.setBuffer b x).st = i.st := rfl
@[simp] theorem Inst.setBuffer_faults (i : Inst) (b : Nat) (x : Buffer) : (i.setBuffer b x).faults = i.faults := rfl
@[simp] theorem Inst.setBuffer_ordinary (i : Inst) (b : Nat) (x : Buffer) : (i.setBuffer b x).ordinary = i.ordinary := rfl
@[simp] theorem Inst.setBuffer_interrupt (i : Inst) (b : Nat) (x : Buffer) : (i.setBuffer b x).interrupt = i.interrupt := rfl
@[simp] theorem Inst.setBuffer_edgeFall (i : Inst) (b : Nat) (x : Buffer) : (i.setBuffer b x).edgeFall = i.edgeFall := rfl
@[simp] theorem Inst.setBuffer_deliverAt (i : Inst) (b : Nat) (x : Buffer) : (i.setBuffer b x).deliverAt = i.deliverAt := rfl
@[simp] theorem Inst.setBuffer_argTable (i : Inst) (b : Nat) (x : Buffer) : (i.setBuffer b x).argTable = i.argTable := rfl
@[simp] theorem Inst.setBuffer_script (i : Inst) (b : Nat) (x : Buffer) : (i.setBuffer b x).script = i.script := rfl
@[simp] theorem Inst.setBuffer_resets (i : Inst) (b : Nat) (x : Buffer) : (i.setBuffer b x).resets = i.resets := rfl
@[simp] theorem Inst.setBuffer_desc (i : Inst) (b : Nat) (x : Buffer) : (i.setBuffer b x).desc = i.desc := rfl
@[simp] theorem Inst.setBuffer_ctx (i : Inst) (b : Nat) (x : Buffer) (k : ContextKind) :
    (i.setBuffer b x).ctx k = i.ctx k := by cases k <;> rfl

/-! ### The fields outside the instances -/

@[simp] theorem State.setInst_now (s : State) (d : Side) (i : Inst) : (s.setInst d i).now = s.now := by cases d <;> rfl
@[simp] theorem State.setInst_trace (s : State) (d : Side) (i : Inst) : (s.setInst d i).trace = s.trace := by cases d <;> rfl
@[simp] theorem State.setInst_params (s : State) (d : Side) (i : Inst) : (s.setInst d i).params = s.params := by cases d <;> rfl
@[simp] theorem State.setInst_env (s : State) (d : Side) (i : Inst) : (s.setInst d i).env = s.env := by cases d <;> rfl
@[simp] theorem State.setInst_cur (s : State) (d : Side) (i : Inst) : (s.setInst d i).cur = s.cur := by cases d <;> rfl
@[simp] theorem State.setSelf_now (s : State) (i : Inst) : (s.setSelf i).now = s.now := by simp [State.setSelf]
@[simp] theorem State.setSelf_trace (s : State) (i : Inst) : (s.setSelf i).trace = s.trace := by simp [State.setSelf]
@[simp] theorem State.setSelf_params (s : State) (i : Inst) : (s.setSelf i).params = s.params := by simp [State.setSelf]
@[simp] theorem State.setSelf_env (s : State) (i : Inst) : (s.setSelf i).env = s.env := by simp [State.setSelf]
@[simp] theorem State.setSelf_cur (s : State) (i : Inst) : (s.setSelf i).cur = s.cur := by simp [State.setSelf]
@[simp] theorem State.setCtx_now (s : State) (c : ContextId) (x : Context) : (s.setCtx c x).now = s.now := by simp [State.setCtx]
@[simp] theorem State.setCtx_trace (s : State) (c : ContextId) (x : Context) : (s.setCtx c x).trace = s.trace := by simp [State.setCtx]
@[simp] theorem State.setCtx_params (s : State) (c : ContextId) (x : Context) : (s.setCtx c x).params = s.params := by simp [State.setCtx]
@[simp] theorem State.setCtx_env (s : State) (c : ContextId) (x : Context) : (s.setCtx c x).env = s.env := by simp [State.setCtx]
@[simp] theorem State.setCtx_cur (s : State) (c : ContextId) (x : Context) : (s.setCtx c x).cur = s.cur := by simp [State.setCtx]
@[simp] theorem State.setStatus_now (s : State) (st : Status) : (s.setStatus st).now = s.now := by simp [State.setStatus]
@[simp] theorem State.setStatus_trace (s : State) (st : Status) : (s.setStatus st).trace = s.trace := by simp [State.setStatus]
@[simp] theorem State.setStatus_params (s : State) (st : Status) : (s.setStatus st).params = s.params := by simp [State.setStatus]
@[simp] theorem State.setStatus_env (s : State) (st : Status) : (s.setStatus st).env = s.env := by simp [State.setStatus]
@[simp] theorem State.setStatus_cur (s : State) (st : Status) : (s.setStatus st).cur = s.cur := by simp [State.setStatus]
@[simp] theorem State.load_now (s : State) (ms : List Micro) : (s.load ms).now = s.now := by simp [State.load]
@[simp] theorem State.load_trace (s : State) (ms : List Micro) : (s.load ms).trace = s.trace := by simp [State.load]
@[simp] theorem State.load_params (s : State) (ms : List Micro) : (s.load ms).params = s.params := by simp [State.load]
@[simp] theorem State.load_env (s : State) (ms : List Micro) : (s.load ms).env = s.env := by simp [State.load]
@[simp] theorem State.load_cur (s : State) (ms : List Micro) : (s.load ms).cur = s.cur := by simp [State.load]
@[simp] theorem State.goto_now (s : State) (ms : List Micro) : (s.goto ms).now = s.now := by simp [State.goto]
@[simp] theorem State.goto_trace (s : State) (ms : List Micro) : (s.goto ms).trace = s.trace := by simp [State.goto]
@[simp] theorem State.goto_params (s : State) (ms : List Micro) : (s.goto ms).params = s.params := by simp [State.goto]
@[simp] theorem State.goto_env (s : State) (ms : List Micro) : (s.goto ms).env = s.env := by simp [State.goto]
@[simp] theorem State.goto_cur (s : State) (ms : List Micro) : (s.goto ms).cur = s.cur := by simp [State.goto]
@[simp] theorem State.halt_now (s : State) : s.halt.now = s.now := by simp [State.halt]
@[simp] theorem State.halt_trace (s : State) : s.halt.trace = s.trace := by simp [State.halt]
@[simp] theorem State.halt_params (s : State) : s.halt.params = s.params := by simp [State.halt]
@[simp] theorem State.halt_env (s : State) : s.halt.env = s.env := by simp [State.halt]
@[simp] theorem State.halt_cur (s : State) : s.halt.cur = s.cur := by simp [State.halt]

/-! ### Draws -/

@[simp] theorem State.afterDraw_instI (s : State) : s.afterDraw.instI = s.instI := rfl
@[simp] theorem State.afterDraw_instT (s : State) : s.afterDraw.instT = s.instT := rfl
@[simp] theorem State.afterDraw_now (s : State) : s.afterDraw.now = s.now := rfl
@[simp] theorem State.afterDraw_trace (s : State) : s.afterDraw.trace = s.trace := rfl
@[simp] theorem State.afterDraw_params (s : State) : s.afterDraw.params = s.params := rfl
@[simp] theorem State.afterDraw_cur (s : State) : s.afterDraw.cur = s.cur := rfl
@[simp] theorem State.afterDraw_inst (s : State) (d : Side) : s.afterDraw.inst d = s.inst d := by cases d <;> rfl
@[simp] theorem State.afterDraw_ctx (s : State) (c : ContextId) : s.afterDraw.ctx c = s.ctx c := by
  simp [State.ctx]
@[simp] theorem State.afterDraw_self (s : State) : s.afterDraw.self = s.self := by simp [State.self]
@[simp] theorem State.afterDraw_line (s : State) : s.afterDraw.line = s.line := rfl
theorem drawUpTo_le (bound n : Nat) : drawUpTo bound n ≤ bound := by
  unfold drawUpTo
  split
  · omega
  · exact Nat.lt_succ_iff.mp (Nat.mod_lt _ (Nat.succ_pos _))
@[simp] theorem drawUpTo_zero (n : Nat) : drawUpTo 0 n = 0 := rfl

/-! ### The instance whose operation runs -/

@[simp] theorem State.setSelf_inst (s : State) (i : Inst) : (s.setSelf i).inst s.cur.side = i := by
  simp [State.setSelf]
@[simp] theorem State.self_setSelf (s : State) (i : Inst) : (s.setSelf i).self = i := by
  simp [State.self, State.setSelf]
@[simp] theorem State.setSelf_other (s : State) (i : Inst) :
    (s.setSelf i).inst s.cur.side.other = s.inst s.cur.side.other := by simp [State.setSelf]
@[simp] theorem State.setSelf_self (s : State) : s.setSelf s.self = s := by simp [State.setSelf, State.self]
@[simp] theorem State.setSelf_setSelf (s : State) (i j : Inst) : (s.setSelf i).setSelf j = s.setSelf j := by
  simp [State.setSelf]
@[simp] theorem State.self_setStatus (s : State) (st : Status) :
    (s.setStatus st).self = s.self.setCtx s.cur.kind { s.ctx s.cur with status := st } := by
  simp [State.self, State.setStatus, State.setCtx]
@[simp] theorem State.self_load (s : State) (ms : List Micro) :
    (s.load ms).self =
      s.self.setCtx s.cur.kind { s.ctx s.cur with status := .ready, code := ms ++ (s.ctx s.cur).code } := by
  simp [State.self, State.load, State.setCtx]
@[simp] theorem State.self_goto (s : State) (ms : List Micro) :
    (s.goto ms).self = s.self.setCtx s.cur.kind { s.ctx s.cur with status := .ready, code := ms } := by
  simp [State.self, State.goto, State.setCtx]
@[simp] theorem State.self_halt (s : State) :
    s.halt.self = s.self.setCtx s.cur.kind { s.ctx s.cur with status := .halted, code := [] } := by
  simp [State.self, State.halt, State.setCtx]
@[simp] theorem State.setCtx_other (s : State) (x : Context) :
    (s.setCtx s.cur x).inst s.cur.side.other = s.inst s.cur.side.other := by simp [State.setCtx]
@[simp] theorem State.setStatus_other (s : State) (st : Status) :
    (s.setStatus st).inst s.cur.side.other = s.inst s.cur.side.other := by simp [State.setStatus]
@[simp] theorem State.load_other (s : State) (ms : List Micro) :
    (s.load ms).inst s.cur.side.other = s.inst s.cur.side.other := by simp [State.load]
@[simp] theorem State.goto_other (s : State) (ms : List Micro) :
    (s.goto ms).inst s.cur.side.other = s.inst s.cur.side.other := by simp [State.goto]
@[simp] theorem State.halt_other (s : State) :
    s.halt.inst s.cur.side.other = s.inst s.cur.side.other := by simp [State.halt]
@[simp] theorem State.ctx_load (s : State) (ms : List Micro) :
    (s.load ms).ctx s.cur = { s.ctx s.cur with status := .ready, code := ms ++ (s.ctx s.cur).code } := by
  simp [State.load]
@[simp] theorem State.ctx_goto (s : State) (ms : List Micro) :
    (s.goto ms).ctx s.cur = { s.ctx s.cur with status := .ready, code := ms } := by simp [State.goto]
@[simp] theorem State.ctx_setStatus (s : State) (st : Status) :
    (s.setStatus st).ctx s.cur = { s.ctx s.cur with status := st } := by simp [State.setStatus]
@[simp] theorem State.ctx_halt (s : State) :
    s.halt.ctx s.cur = { s.ctx s.cur with status := .halted, code := [] } := by simp [State.halt]

/-! ### The fault record -/

@[simp] theorem State.raiseFault_now (s : State) (c : FaultCode) : (s.raiseFault c).now = s.now := by
  simp [State.raiseFault]
@[simp] theorem State.raiseFault_params (s : State) (c : FaultCode) : (s.raiseFault c).params = s.params := by
  simp [State.raiseFault]
@[simp] theorem State.raiseFault_env (s : State) (c : FaultCode) : (s.raiseFault c).env = s.env := by
  simp [State.raiseFault]
@[simp] theorem State.raiseFault_cur (s : State) (c : FaultCode) : (s.raiseFault c).cur = s.cur := by
  simp [State.raiseFault]
@[simp] theorem State.raiseFault_trace (s : State) (c : FaultCode) :
    (s.raiseFault c).trace =
      s.trace ++ [{ side := s.cur.side, code := c, opcode := s.opcode, time := s.now }] := rfl
@[simp] theorem State.raiseFault_inst (s : State) (c : FaultCode) (d : Side) :
    (s.raiseFault c).inst d = (s.setSelf { s.self with faults := insertFault c s.self.faults }).inst d := by
  cases d <;> rfl
@[simp] theorem State.self_raiseFault (s : State) (c : FaultCode) :
    (s.raiseFault c).self = { s.self with faults := insertFault c s.self.faults } := by
  simp [State.self, State.setSelf]
theorem State.ctx_raiseFault (s : State) (c : FaultCode) (x : ContextId) :
    (s.raiseFault c).ctx x = s.ctx x := by
  obtain ⟨d, k⟩ := x
  rcases s with ⟨i, t, n, tr, p, e, ⟨cd, ck⟩⟩
  cases d <;> cases k <;> cases cd <;> rfl

end Sys2Proof.Machine
end

