-- ==== Sys2Proof/Laws/Ops.lean ====
section
/-! SUPPORT. For each shared operation, once, everything it can do: the fault record, the edge detector, a port write,
a refusal, a register read, the loading of a sequence, draws and samples. -/

namespace Sys2Proof.Machine

/-! ### The fault set -/

@[simp] theorem mem_insertFault {c d : FaultCode} : ∀ {l : List FaultCode}, d ∈ insertFault c l ↔ d = c ∨ d ∈ l
  | [] => by simp [insertFault]
  | e :: l => by
    have ih := mem_insertFault (c := c) (d := d) (l := l)
    simp only [insertFault]
    split
    · simp
    · split
      · rename_i h
        subst h
        simp
      · simp only [List.mem_cons, ih]
        tauto

theorem FaultCode.number_inj {c d : FaultCode} (h : c.number = d.number) : c = d := by
  cases c <;> cases d <;> first | rfl | exact absurd h (by decide)

theorem faultsSorted_cons {c : FaultCode} {l : List FaultCode} :
    faultsSorted (c :: l) = true ↔ (∀ d ∈ l, c.number < d.number) ∧ faultsSorted l = true := by
  simp [faultsSorted]

/-- Recording a fault keeps the set's one written form. -/
theorem faultsSorted_insertFault (c : FaultCode) : ∀ {l : List FaultCode}, faultsSorted l = true →
    faultsSorted (insertFault c l) = true
  | [], _ => rfl
  | e :: l, h => by
    obtain ⟨h1, h2⟩ := faultsSorted_cons.mp h
    simp only [insertFault]
    split
    · rename_i hc
      refine faultsSorted_cons.mpr ⟨fun d hd => ?_, h⟩
      rcases List.mem_cons.mp hd with rfl | hd
      · exact hc
      · exact Nat.lt_trans hc (h1 d hd)
    · split
      · exact h
      · rename_i hc hne
        refine faultsSorted_cons.mpr ⟨fun d hd => ?_, faultsSorted_insertFault c h2⟩
        rcases mem_insertFault.mp hd with rfl | hd
        · exact Nat.lt_of_le_of_ne (Nat.le_of_not_lt hc) fun he => hne (FaultCode.number_inj he.symm)
        · exact h1 d hd

/-! ### The edge detector -/

theorem SameButEdges.refl (i : Inst) : SameButEdges i i := rfl

theorem SameButEdges.trans {i j k : Inst} (h1 : SameButEdges i j) (h2 : SameButEdges j k) : SameButEdges i k := by
  unfold SameButEdges at *
  rw [h1] at h2
  exact h2

theorem SameButEdges.mk' (i : Inst) (p : Bool) (f : Option Nat) :
    SameButEdges i { i with edgePend := p, edgeFall := f } := rfl

/-- What a detector may do to the state: latch or drop an edge of its own instance, take a draw. -/
structure Detected (s t : State) (d : Side) : Prop where
  globals : SameGlobals s t
  trace : t.trace = s.trace
  other : t.inst d.other = s.inst d.other
  self : SameButEdges (s.inst d) (t.inst d)
  disabled : (s.inst d).edgeEn = false → t = s
  fall : (∀ x, (s.inst d).edgeFall = some x → (s.inst d).edgePend = true ∧ x ≤ s.now) →
    ∀ x, (t.inst d).edgeFall = some x → (t.inst d).edgePend = true ∧ x ≤ s.now

theorem Detected.refl (s : State) (d : Side) : Detected s s d :=
  ⟨⟨rfl, rfl, rfl⟩, rfl, rfl, rfl, fun _ => rfl, id⟩

theorem Detected.trans {s t u : State} {d : Side} (h1 : Detected s t d) (h2 : Detected t u d) : Detected s u d where
  globals := ⟨h2.globals.1.trans h1.globals.1, h2.globals.2.1.trans h1.globals.2.1,
    h2.globals.2.2.trans h1.globals.2.2⟩
  trace := h2.trace.trans h1.trace
  other := h2.other.trans h1.other
  self := h1.self.trans h2.self
  disabled h := by
    have := h1.disabled h
    subst this
    exact h2.disabled h
  fall h := by
    have hn := h1.globals.1
    have := h2.fall (hn ▸ h1.fall h)
    exact hn ▸ this

theorem State.latchEdge_detected {s : State} {d : Side} (h : (s.inst d).edgeEn = true) {f : Option Nat}
    (hf : ∀ x, f = some x → x ≤ s.now) : Detected s (s.latchEdge d f) d := by
  unfold State.latchEdge
  split
  · exact Detected.refl s d
  · refine ⟨⟨by simp, by simp, by simp⟩, by simp, by simp, ?_, fun h' => ?_, fun _ x hx => ?_⟩
    · simpa using SameButEdges.mk' _ true f
    · simp [h] at h'
    · simpa using hf x (by simpa using hx)

theorem State.endPulse_detected {s : State} {d : Side} (h : (s.inst d).edgeEn = true) :
    Detected s (s.endPulse d) d := by
  unfold State.endPulse
  split
  · exact Detected.refl s d
  · split
    · refine ⟨⟨by simp, by simp, by simp⟩, by simp, by simp, ?_, fun h' => ?_, fun _ x hx => ?_⟩
      · simpa using SameButEdges.mk' _ ((s.inst d).edgePend && drawBit s.drawn) none
      · simp [h] at h'
      · simp at hx
    · refine ⟨⟨by simp, by simp, by simp⟩, by simp, by simp, ?_, fun h' => ?_, fun _ x hx => ?_⟩
      · simpa using SameButEdges.mk' _ (s.inst d).edgePend none
      · simp [h] at h'
      · simp at hx

theorem State.afterDraw_detected {s : State} {d : Side} (h : (s.inst d).edgeEn = true) :
    Detected s s.afterDraw d :=
  ⟨⟨rfl, rfl, rfl⟩, rfl, by simp, by simp [SameButEdges], fun h' => by simp [h] at h', fun hs => by simpa using hs⟩

/-- An edge the draw decides about. -/
theorem State.drawnEdge_detected {s : State} {d : Side} (h : (s.inst d).edgeEn = true) :
    Detected s (if drawBit s.drawn then s.afterDraw.latchEdge d none else s.afterDraw) d := by
  split
  · exact (State.afterDraw_detected h).trans (State.latchEdge_detected (by simpa using h) (by simp))
  · exact State.afterDraw_detected h

/-- A detector changes nothing but what it has latched. -/
theorem State.detect_detected (s : State) (d : Side) (b a : Line) : Detected s (s.detect d b a) d := by
  unfold State.detect
  split
  · exact Detected.refl s d
  · rename_i hne
    have h : (s.inst d).edgeEn = true := by simpa using hne
    split
    · exact State.latchEdge_detected h (by simp)
    · exact State.endPulse_detected h
    · have h1 := State.endPulse_detected h
      refine h1.trans (State.drawnEdge_detected ?_)
      have := h1.self
      rw [this]
      exact h
    · split
      · exact State.drawnEdge_detected h
      · exact Detected.refl s d

/-- Both detectors: each instance keeps all but its latched edge. -/
structure DetectedBoth (s t : State) : Prop where
  globals : SameGlobals s t
  trace : t.trace = s.trace
  inst : ∀ d, SameButEdges (s.inst d) (t.inst d)
  disabled : ∀ d, (s.inst d).edgeEn = false → t.inst d = s.inst d
  fall : ∀ d, (∀ x, (s.inst d).edgeFall = some x → (s.inst d).edgePend = true ∧ x ≤ s.now) →
    ∀ x, (t.inst d).edgeFall = some x → (t.inst d).edgePend = true ∧ x ≤ s.now
  quiet : (∀ d, (s.inst d).edgeEn = false) → t = s

theorem State.detectBoth_spec (s : State) (b a : Line) : DetectedBoth s (s.detectBoth b a) := by
  have h1 := s.detect_detected .I b a
  have h2 := (s.detect .I b a).detect_detected .T b a
  have o1 : (s.detect .I b a).inst .T = s.inst .T := h1.other
  have o2 : (s.detectBoth b a).inst .I = (s.detect .I b a).inst .I := h2.other
  refine ⟨⟨h2.globals.1.trans h1.globals.1, h2.globals.2.1.trans h1.globals.2.1,
    h2.globals.2.2.trans h1.globals.2.2⟩, h2.trace.trans h1.trace, fun d => ?_, fun d hd => ?_, fun d hd => ?_,
    fun hq => ?_⟩
  · cases d
    · rw [o2]
      exact h1.self
    · rw [← o1]
      exact h2.self
  · cases d
    · rw [o2, h1.disabled hd]
    · rw [← o1] at hd
      rw [← o1]
      exact congrArg (fun x => x.inst .T) (h2.disabled hd)
  · cases d
    · rw [o2]
      exact h1.fall hd
    · have hn := h1.globals.1
      rw [← o1, ← hn] at hd
      rw [← hn]
      exact h2.fall hd
  · have e1 := h1.disabled (hq .I)
    have e2 : (s.detect .I b a).inst .T = s.inst .T := h1.other
    exact (h2.disabled (by rw [e2]; exact hq .T)).trans e1

/-! ### A port write -/

/-- Detection never changes the line. -/
theorem State.line_of_sameButEdges {s t : State} (h : ∀ d, SameButEdges (s.inst d) (t.inst d)) : t.line = s.line := by
  have h1 : SameButEdges s.instI t.instI := h .I
  have h2 : SameButEdges s.instT t.instT := h .T
  unfold State.line
  rw [h1, h2]
  rfl

theorem State.line_raiseFault (s : State) (c : FaultCode) : (s.raiseFault c).line = s.line := by
  rcases s with ⟨i, t, n, tr, p, e, ⟨cd, ck⟩⟩
  cases cd <;> rfl

/-- The state of a port write before the detectors look at it. -/
def State.portMid (s : State) (dir : Dir) (olat : Bool) : State :=
  let s1 := s.setSelf { s.self with dir := dir, olat := olat }
  if s.line ≠ .contended ∧ s1.line = .contended then s1.raiseFault .lineContention else s1

theorem State.writePort_eq (s : State) (dir : Dir) (olat : Bool) :
    s.writePort dir olat =
      (s.portMid dir olat).detectBoth s.line (s.setSelf { s.self with dir := dir, olat := olat }).line := rfl

theorem State.portMid_line (s : State) (dir : Dir) (olat : Bool) :
    (s.portMid dir olat).line = (s.setSelf { s.self with dir := dir, olat := olat }).line := by
  unfold State.portMid
  simp only
  split
  · exact State.line_raiseFault _ _
  · rfl

theorem State.opcode_setSelf_port (s : State) (dir : Dir) (olat : Bool) :
    (s.setSelf { s.self with dir := dir, olat := olat }).opcode = s.opcode := by
  rcases s with ⟨i, t, n, tr, p, e, ⟨cd, ck⟩⟩
  cases cd <;> cases ck <;> rfl

theorem State.raiseFault_setSelf_inst (s : State) (i : Inst) (c : FaultCode) :
    ((s.setSelf i).raiseFault c).inst s.cur.side = { i with faults := insertFault c i.faults } := by
  rcases s with ⟨a, b, n, tr, p, e, ⟨cd, ck⟩⟩
  cases cd <;> rfl

theorem State.raiseFault_setSelf_other (s : State) (i : Inst) (c : FaultCode) :
    ((s.setSelf i).raiseFault c).inst s.cur.side.other = s.inst s.cur.side.other := by
  rcases s with ⟨a, b, n, tr, p, e, ⟨cd, ck⟩⟩
  cases cd <;> rfl

/-- The line after a port write is the line its new port state gives. -/
theorem State.writePort_line (s : State) (dir : Dir) (olat : Bool) :
    (s.writePort dir olat).line = (s.setSelf { s.self with dir := dir, olat := olat }).line := by
  rw [State.writePort_eq, State.line_of_sameButEdges (State.detectBoth_spec _ _ _).inst, State.portMid_line]

/-- Everything a port write can do (R231, R233 to R236, R380). -/
theorem State.writePort_spec (s : State) (dir : Dir) (olat : Bool) :
    PortWritten s (s.writePort dir olat) dir olat := by
  have hl := s.writePort_line dir olat
  have hd := State.detectBoth_spec (s.portMid dir olat) s.line
    (s.setSelf { s.self with dir := dir, olat := olat }).line
  rw [← State.writePort_eq] at hd
  have hc : (s.portMid dir olat).cur = s.cur := by
    unfold State.portMid
    simp only
    split <;> simp
  have hg := hd.globals
  have hcur : (s.writePort dir olat).cur = s.cur := hg.2.2.trans hc
  refine ⟨⟨hg.1.trans ?_, hg.2.1.trans ?_, hcur⟩, ?_, ?_, ?_⟩
  · unfold State.portMid
    simp only
    split <;> simp
  · unfold State.portMid
    simp only
    split <;> simp
  · have := hd.inst s.cur.side
    rw [show (s.writePort dir olat).self = (s.writePort dir olat).inst s.cur.side by rw [State.self, hcur], hl]
    refine SameButEdges.trans ?_ this
    unfold State.portMid
    simp only
    split
    · rw [State.raiseFault_setSelf_inst]
      exact SameButEdges.refl _
    · rw [State.setSelf_inst]
      exact SameButEdges.refl _
  · have := hd.inst s.cur.side.other
    refine SameButEdges.trans ?_ this
    unfold State.portMid
    simp only
    split
    · rw [State.raiseFault_setSelf_other]
      exact SameButEdges.refl _
    · rw [State.setSelf_other]
      exact SameButEdges.refl _
  · rw [hd.trace, hl]
    unfold State.portMid
    simp only
    split
    · simp [State.opcode_setSelf_port]
    · simp

/-! ### Refusals and register reads -/

/-- Everything a refusal does (R557). -/
theorem State.refuse_spec (s : State) (code : FaultCode) : Refused s (s.refuse code) code := by
  rcases s with ⟨i, t, n, tr, p, e, ⟨cd, ck⟩⟩
  cases cd <;> cases ck <;> exact ⟨⟨rfl, rfl, rfl⟩, rfl, rfl, rfl, rfl⟩

@[simp] theorem State.withReg_some {α : Type} (s : State) (v : α) (k : α → State) : s.withReg (some v) k = k v := rfl
@[simp] theorem State.withReg_none {α : Type} (s : State) (k : α → State) :
    s.withReg none k = s.refuse .uninitRead := rfl

/-- A register read goes on with the register's value or refuses. -/
theorem State.withReg_cases {α : Type} (s : State) (r : Option α) (k : α → State) :
    (∃ v, r = some v ∧ s.withReg r k = k v) ∨ (r = none ∧ s.withReg r k = s.refuse .uninitRead) := by
  cases r <;> simp

/-- The selection of the descriptor goes on with it or refuses. -/
theorem State.withDesc_cases (s : State) (k : Descriptor → State) :
    (∃ d, s.self.desc = some d ∧ s.withDesc k = k d) ∨
      (s.self.desc = none ∧ s.withDesc k = s.refuse .noDescriptor) := by
  unfold State.withDesc
  cases h : s.self.desc <;> simp

/-- A read of the selected buffer goes on with the byte, or refuses (R121, R122). -/
theorem State.memRead_cases (s : State) (i : Nat) (k : Byte → State) :
    (∃ e v, s.self.desc = some e ∧ s.self.byteAt e.t2i i = some v ∧ s.memRead i k = k v) ∨
      (∃ e, s.self.desc = some e ∧ s.self.byteAt e.t2i i = none ∧ s.memRead i k = s.refuse .badIndex) ∨
      (s.self.desc = none ∧ s.memRead i k = s.refuse .noDescriptor) := by
  unfold State.memRead State.withDesc Inst.byteAt
  cases h : s.self.desc with
  | none => simp
  | some e => cases h2 : (s.self.buffer e.t2i).read i <;> simp [h2]

/-- A write of the selected buffer replaces that buffer, or refuses (R121, R122). -/
theorem State.memWrite_cases (s : State) (i : Nat) (v : Byte) :
    (∃ e b, s.self.desc = some e ∧ (s.self.buffer e.t2i).write i v = some b ∧
        s.memWrite i v = s.setSelf (s.self.setBuffer e.t2i b)) ∨
      (∃ e, s.self.desc = some e ∧ (s.self.buffer e.t2i).len ≤ i ∧ s.memWrite i v = s.refuse .badIndex) ∨
      (s.self.desc = none ∧ s.memWrite i v = s.refuse .noDescriptor) := by
  unfold State.memWrite State.withDesc
  cases h : s.self.desc with
  | none => simp
  | some e =>
    cases h2 : (s.self.buffer e.t2i).write i v with
    | some b => simp [h2]
    | none =>
      have : (s.self.buffer e.t2i).len ≤ i := by
        unfold Buffer.write at h2
        split at h2 <;> simp_all
      simp [h2, this]

/-! ### Samples and polls -/

/-- A sample changes nothing but the draw it takes. -/
theorem State.afterSample_cases (s : State) : s.afterSample = s ∨ s.afterSample = s.afterDraw := by
  unfold State.afterSample
  split <;> simp

/-- A poll changes nothing but the draw it takes. -/
theorem State.afterPoll_cases (s : State) : s.afterPoll = s ∨ s.afterPoll = s.afterDraw := by
  unfold State.afterPoll
  split <;> simp

/-- Without noise, a sample of a line that is not contended is the line's level (R237). -/
theorem State.sample_level {s : State} (hn : s.params.noise = .none) (hl : s.line ≠ .contended) :
    s.sample = decide (s.line = .high) ∧ s.afterSample = s := by
  have : s.sampleDraws = false := by simp [State.sampleDraws, hn, hl]
  simp [State.sample, State.afterSample, this]

/-- A poll of a line that is not contended is the line's level (R264). -/
theorem State.poll_level {s : State} (hl : s.line ≠ .contended) :
    s.poll = decide (s.line = .high) ∧ s.afterPoll = s := by
  simp [State.poll, State.afterPoll, hl]

/-! ### The checksum arithmetic -/

@[simp] theorem fold_fold (x : Byte) : fold (fold x) = x := by
  simp [fold]

theorem fold_inj {x y : Byte} (h : fold x = fold y) : x = y := by
  have := congrArg fold h
  simpa using this

end Sys2Proof.Machine
end

