-- ==== Sys2Proof/Laws/PerInstr.lean ====
section
/-! SUPPORT. Laws of every operation as syntax: its format and the length of its word (30_encoding.md R180, R183). -/

/-- The opcode alone fixes the word: it has a format of R183, a Z-format word is one byte long, a B-format or P-format
word two, and the first byte is the opcode (R180). -/
def Sys2Proof.Laws.Format.Statement (i : Sys2Proof.Instr) : Prop :=
  ∃ f : Sys2Proof.Format, Sys2Proof.formatOf i.opcode = some f ∧
    (Sys2Proof.encode i).length = (if f = Sys2Proof.Format.Z then 1 else 2) ∧
    (Sys2Proof.encode i).head? = some i.opcode

theorem Sys2Proof.Laws.Format.setout : Sys2Proof.Laws.Format.Statement .setout := ⟨.Z, rfl, rfl, rfl⟩
theorem Sys2Proof.Laws.Format.setin : Sys2Proof.Laws.Format.Statement .setin := ⟨.Z, rfl, rfl, rfl⟩
theorem Sys2Proof.Laws.Format.drvh : Sys2Proof.Laws.Format.Statement .drvh := ⟨.Z, rfl, rfl, rfl⟩
theorem Sys2Proof.Laws.Format.drvl : Sys2Proof.Laws.Format.Statement .drvl := ⟨.Z, rfl, rfl, rfl⟩
theorem Sys2Proof.Laws.Format.rdlvl : Sys2Proof.Laws.Format.Statement .rdlvl := ⟨.Z, rfl, rfl, rfl⟩
theorem Sys2Proof.Laws.Format.delay (sel : BitVec 4) : Sys2Proof.Laws.Format.Statement (.delay sel) := ⟨.P, rfl, rfl, rfl⟩
theorem Sys2Proof.Laws.Format.waith : Sys2Proof.Laws.Format.Statement .waith := ⟨.Z, rfl, rfl, rfl⟩
theorem Sys2Proof.Laws.Format.wrbit (b : Bool) : Sys2Proof.Laws.Format.Statement (.wrbit b) := ⟨.B, rfl, rfl, rfl⟩
theorem Sys2Proof.Laws.Format.rdbit : Sys2Proof.Laws.Format.Statement .rdbit := ⟨.Z, rfl, rfl, rfl⟩
theorem Sys2Proof.Laws.Format.wrbyte (v : Sys2Proof.Byte) : Sys2Proof.Laws.Format.Statement (.wrbyte v) := ⟨.B, rfl, rfl, rfl⟩
theorem Sys2Proof.Laws.Format.rdbyte : Sys2Proof.Laws.Format.Statement .rdbyte := ⟨.Z, rfl, rfl, rfl⟩
theorem Sys2Proof.Laws.Format.ssync : Sys2Proof.Laws.Format.Statement .ssync := ⟨.Z, rfl, rfl, rfl⟩
theorem Sys2Proof.Laws.Format.rsync : Sys2Proof.Laws.Format.Statement .rsync := ⟨.Z, rfl, rfl, rfl⟩
theorem Sys2Proof.Laws.Format.ckclr : Sys2Proof.Laws.Format.Statement .ckclr := ⟨.Z, rfl, rfl, rfl⟩
theorem Sys2Proof.Laws.Format.ckadd (v : Sys2Proof.Byte) : Sys2Proof.Laws.Format.Statement (.ckadd v) := ⟨.B, rfl, rfl, rfl⟩
theorem Sys2Proof.Laws.Format.ckaddr : Sys2Proof.Laws.Format.Statement .ckaddr := ⟨.Z, rfl, rfl, rfl⟩
theorem Sys2Proof.Laws.Format.ckfold : Sys2Proof.Laws.Format.Statement .ckfold := ⟨.Z, rfl, rfl, rfl⟩
theorem Sys2Proof.Laws.Format.ckcmp : Sys2Proof.Laws.Format.Statement .ckcmp := ⟨.Z, rfl, rfl, rfl⟩
theorem Sys2Proof.Laws.Format.edgeen : Sys2Proof.Laws.Format.Statement .edgeen := ⟨.Z, rfl, rfl, rfl⟩
theorem Sys2Proof.Laws.Format.edgedis : Sys2Proof.Laws.Format.Statement .edgedis := ⟨.Z, rfl, rfl, rfl⟩
theorem Sys2Proof.Laws.Format.irqoff : Sys2Proof.Laws.Format.Statement .irqoff := ⟨.Z, rfl, rfl, rfl⟩
theorem Sys2Proof.Laws.Format.irqon : Sys2Proof.Laws.Format.Statement .irqon := ⟨.Z, rfl, rfl, rfl⟩
theorem Sys2Proof.Laws.Format.initi : Sys2Proof.Laws.Format.Statement .initi := ⟨.Z, rfl, rfl, rfl⟩
theorem Sys2Proof.Laws.Format.initt : Sys2Proof.Laws.Format.Statement .initt := ⟨.Z, rfl, rfl, rfl⟩
theorem Sys2Proof.Laws.Format.txn : Sys2Proof.Laws.Format.Statement .txn := ⟨.Z, rfl, rfl, rfl⟩
theorem Sys2Proof.Laws.Format.tgtisr : Sys2Proof.Laws.Format.Statement .tgtisr := ⟨.Z, rfl, rfl, rfl⟩
end

