-- ==== Sys2Proof/Tests/Slice0.lean ====
section
/-! SUPPORT. Tests of the model on small states, with the expected results taken from spec/ (the source of each is in
its docstring), and a witness for the hypotheses of every obligation that has some. -/

namespace Sys2Proof.Tests

open Sys2Proof Sys2Proof.Machine

/-! ### Helpers -/

/-- Nominal times, no jitter, polls 1 ns apart (95_test_vectors.md, the vectors' configuration). -/
def params : Params := Config.nominalWith 0 1 24999 1000 100 8 true true

/-- A controller's memory: an empty buffer, and a three-byte buffer with these contents. -/
def bufs (m : Memory) : List Buffer := [{ len := 0, mem := [] }, { len := 3, mem := m }]

/-- A table of one descriptor: buffer 0 is its i2t buffer and buffer 1 its t2i buffer. -/
def table : Table := [{ i2t := 0, t2i := 1 }]

/-- Both instances at reset with a three-byte table at hand, the host of I about to issue. -/
def base : State where
  instI := { Inst.reset false true with buffers := bufs [], argTable := table }
  instT := { Inst.reset false true with
    buffers := bufs [(0, 0x01), (1, 0x7F), (2, 0xFF)], argTable := table }
  now := 0
  trace := []
  params := params
  env := { tape := [], count := 0 }
  cur := { side := .I, kind := .ordinary }

/-- `base` with another instance I. -/
def withI (i : Inst) : State := { base with instI := i }

/-- `base` with another instance T. -/
def withT (t : Inst) : State := { base with instT := t }

/-- I as an initiator after INITI. -/
def initiator : Inst :=
  { base.instI with
    table := some base.instI.argTable, dir := .output, olat := true, role := .initiator, st := .iIdle }

/-- T as a target after INITT. -/
def target : Inst :=
  { base.instT with table := some base.instT.argTable, edgeEn := true, role := .target, st := .tArmed }

/-- I with `bytes` in its script, due at once. -/
def scripted (bytes : List Byte) : State :=
  withI { base.instI with script := [{ time := 0, move := .words bytes }] }

/-- What `f` reads from the next state of an outcome. -/
def after {α : Type} (o : Host.Outcome State Fault Refusal) (f : State → α) : Option α :=
  match o with
  | .next s => some (f s)
  | _ => none

/-! ### Well-formedness (30_encoding.md R182, R184) -/

/-- Selector 10 is reserved (R182). -/
theorem test_wf_reserved_selector : (Instr.delay 10).wf = false ∧ (Instr.delay 9).wf = true := by decide

/-- TGTISR may not stand in a sequence (R184). -/
theorem test_wf_tgtisr_not_issuable : Instr.tgtisr.issuable = false ∧ Instr.txn.issuable = true := by decide

/-! ### Decoding (V110 to V120, bits written out from R180 and R183) -/

theorem test_decode_line_port :
    decode [0b00000001] = .op .setout [] ∧ decode [0b00000010] = .op .setin [] ∧
    decode [0b00000011] = .op .drvh [] ∧ decode [0b00000100] = .op .drvl [] ∧
    decode [0b00000101] = .op .rdlvl [] := by decide

theorem test_decode_timing :
    decode [0b00010000, 0b00000011] = .op (.delay 3) [] ∧ decode [0b00010001] = .op .waith [] := by decide

theorem test_decode_framer :
    decode [0b00100000, 0b00000001] = .op (.wrbit true) [] ∧ decode [0b00100001] = .op .rdbit [] ∧
    decode [0b00100010, 0b01011010] = .op (.wrbyte 0x5A) [] ∧ decode [0b00100011] = .op .rdbyte [] := by decide

theorem test_decode_sync :
    decode [0b00110000] = .op .ssync [] ∧ decode [0b00110001] = .op .rsync [] := by decide

theorem test_decode_checksum :
    decode [0b01000000] = .op .ckclr [] ∧ decode [0b01000001, 0b11111111] = .op (.ckadd 0xFF) [] ∧
    decode [0b01000010] = .op .ckaddr [] ∧ decode [0b01000011] = .op .ckfold [] ∧
    decode [0b01000100] = .op .ckcmp [] := by decide

theorem test_decode_control :
    decode [0b01010000] = .op .edgeen [] ∧ decode [0b01010001] = .op .edgedis [] ∧
    decode [0b01010010] = .op .irqoff [] ∧ decode [0b01010011] = .op .irqon [] := by decide

theorem test_decode_engines :
    decode [0b01100000] = .op .initi [] ∧ decode [0b01100001] = .op .initt [] ∧
    decode [0b01100010] = .op .txn [] ∧ decode [0b01100011] = .op .tgtisr [] := by decide

/-- V118 and V119. -/
theorem test_decode_illegal :
    decodeSequence [0x00] = .illegalOp 0x00 [] ∧ decodeSequence [0x06] = .illegalOp 0x06 [] ∧
    decodeSequence [0x0F] = .illegalOp 0x0F [] ∧ decodeSequence [0x12] = .illegalOp 0x12 [] ∧
    decodeSequence [0x24] = .illegalOp 0x24 [] ∧ decodeSequence [0x32] = .illegalOp 0x32 [] ∧
    decodeSequence [0x45] = .illegalOp 0x45 [] ∧ decodeSequence [0x54] = .illegalOp 0x54 [] ∧
    decodeSequence [0x64] = .illegalOp 0x64 [] ∧ decodeSequence [0xFF] = .illegalOp 0xFF [] ∧
    decodeSequence [0x63] = .illegalOp 0x63 [] := by decide

/-- V120, and the least and the greatest operand bytes R184 refuses. -/
theorem test_decode_bad_operand :
    decodeSequence [0x20, 0x80] = .badOperand 0x20 [] ∧ decodeSequence [0x10, 0x0C] = .badOperand 0x10 [] ∧
    decodeSequence [0x10, 0xF0] = .badOperand 0x10 [] ∧ decodeSequence [0x10, 0x0A] = .badOperand 0x10 [] ∧
    decodeSequence [0x10, 0x10] = .badOperand 0x10 [] ∧ decodeSequence [0x20, 0x02] = .badOperand 0x20 [] := by
  decide

/-- The table's numbering: the opcode in bits 15:8. -/
theorem test_table_word : decodeTableWord 16 0x1003 = some (.delay 3) ∧ decodeTableWord 8 0x62 = some .txn := by decide

/-- The nominal values of R182, whatever the OPEN parameters are. -/
theorem test_selectors (jd jp lm we ml iw : Nat) (a b : Bool) :
    let p := Config.nominalWith jd jp lm we ml iw a b
    param p 0 = some 1000 ∧ param p 1 = some 24000 ∧ param p 2 = some 48000 ∧ param p 3 = some 24000 ∧
    param p 4 = some 48000 ∧ param p 5 = some 2000 ∧ param p 6 = some 50000 ∧ param p 7 = some 50000 ∧
    param p 8 = some 50000 ∧ param p 9 = some 1000 ∧ param p 10 = none ∧ param p 15 = none :=
  ⟨rfl, rfl, rfl, rfl, rfl, rfl, rfl, rfl, rfl, rfl, rfl, rfl⟩

/-! ### The assembler (R186) -/

theorem test_assemble_parameter :
    assembleLine "delay T_HALF ; comment".toList = .op (.delay 3) ∧ assembleLine "DELAY 3".toList = .op (.delay 3) := by
  decide

theorem test_assemble_text :
    assemble ["CKCLR".toList, "; only a comment".toList, "ckadd 0x7F".toList, "WRBYTE 127".toList] =
      some [0x40, 0x41, 0x7F, 0x22, 0x7F] := by decide

theorem test_assemble_malformed :
    assembleLine "CKADD 256".toList = .malformed ∧ assembleLine "SETOUT 1".toList = .malformed := by decide

/-! ### The line port (40_line_port.md) -/

/-- R233's corner case: `OLAT = 0`, so the line falls. -/
theorem test_setout_drives : after (exec .setout base) (fun s => (s.instI.dir, s.line)) = some (.output, .low) := by
  decide

/-- R233's exception: the partner drives the other level. -/
theorem test_setout_contends :
    after (exec .setout (withT { base.instT with dir := .output, olat := true }))
      (fun s => (s.line, s.instI.faults, s.instT.faults)) = some (.contended, [.lineContention], []) := by decide

/-- R234's example. -/
theorem test_setin_releases :
    after (exec .setin (withI { base.instI with dir := .output })) (fun s => (s.instI.olat, s.line)) =
      some (false, .high) := by decide

/-- R235: a release, and the latch of an input port. -/
theorem test_drvh_releases :
    after (exec .drvh (withI { base.instI with dir := .output })) (fun s => (s.line, s.instI.faults)) =
      some (.high, []) := by decide

/-- R236, R380: a falling edge, which the partner's detector latches. -/
theorem test_drvl_edge :
    after (exec .drvl { base with instI := initiator, instT := target })
      (fun s => (s.line, s.instT.edgePend, s.instI.edgePend)) = some (.low, true, false) := by decide

/-- R238's example. -/
theorem test_rdlvl_low :
    after (exec .rdlvl (withT { base.instT with dir := .output })) (fun s => s.instI.res) = some (some 0x00) := by decide

/-- R238, R232: the pull-up reads as 1. -/
theorem test_rdlvl_pullup : after (exec .rdlvl base) (fun s => s.instI.res) = some (some 0x01) := by decide

/-! ### Timing (41_timing.md) -/

/-- R262: `T_RXBIT` from now. -/
theorem test_delay_sleeps :
    after (exec (.delay 7) { base with now := 5 }) (fun s => s.instI.ordinary.status) = some (.sleeping 50005) := by
  decide

/-- R184. -/
theorem test_delay_reserved :
    after (exec (.delay 10) base) (fun s => (s.instI.ordinary.status, s.instI.faults)) =
      some (.halted, [.badOperand]) := by decide

/-- R264: a poll of a low line is repeated. -/
theorem test_waith_low :
    after (exec .waith (withT { base.instT with dir := .output })) (fun s => s.instI.ordinary.status) =
      some (.polling 1) := by decide

/-- R264: a poll of a high line ends WAITH. -/
theorem test_waith_high : after (exec .waith base) (fun s => s.instI.ordinary.status) = some .idle := by decide

/-! ### Framer and synchronization (42_framer.md, 43_sync.md) -/

/-- R320. -/
theorem test_wrbit_code :
    after (exec (.wrbit false) base) (fun s => s.instI.ordinary.code) =
      some [.op .drvl, .op (.delay 4), .op (.delay 5)] := by decide

/-- R321: 0xA5 shifted by a sample of 1 is 0x4B. -/
theorem test_rdbit_shifts :
    after (exec .rdbit (withI { base.instI with acc := some 0xA5 })) (fun s => s.instI.acc) = some (some 0x4B) := by
  decide

/-- R322: 0x5A is 01011010, and its MSB goes to the latch before the port drives. -/
theorem test_wrbyte_code :
    after (exec (.wrbyte 0x5A) base) (fun s => s.instI.ordinary.code.take 4) =
      some [.op .drvl, .op .setout, .op (.wrbit false), .op (.wrbit true)] := by decide

/-- R323. -/
theorem test_rdbyte_code :
    after (exec .rdbyte base) (fun s => (s.instI.ordinary.code.length, s.instI.ordinary.code.getLast?)) =
      some (11, some .accToRes) := by decide

/-- R290: the latch before the direction. -/
theorem test_ssync_code :
    after (exec .ssync base) (fun s => s.instI.ordinary.code) =
      some [.op .drvl, .op .setout, .op (.delay 2), .op .drvh, .op (.delay 9)] := by decide

/-- R291. -/
theorem test_rsync_code :
    after (exec .rsync base) (fun s => s.instI.ordinary.code) = some [.op .setin, .op .waith, .op (.delay 3)] := by
  decide

/-! ### Checksum (44_checksum.md; the source's example [01, 7F, FF] has checksum 120) -/

theorem test_ckclr : after (exec .ckclr base) (fun s => s.instI.sum) = some (some 0x00) := by decide

theorem test_ckadd_wraps :
    after (exec (.ckadd 0xFF) (withI { base.instI with sum := some 0x80 })) (fun s => s.instI.sum) =
      some (some 0x7F) := by decide

theorem test_ckaddr_reads_res :
    after (exec .ckaddr (withI { base.instI with sum := some 0x01, res := some 0x7F })) (fun s => s.instI.sum) =
      some (some 0x80) := by decide

theorem test_ckfold :
    after (exec .ckfold (withI { base.instI with sum := some 0x7F })) (fun s => s.instI.ck) = some (some 0x78) := by
  decide

theorem test_ckcmp_one_bit :
    after (exec .ckcmp (withI { base.instI with ck := some 0x78, res := some 0x79 })) (fun s => s.instI.matchFlag) =
      some (some false) := by decide

/-- R56, R558: an unwritten SUM. -/
theorem test_ckadd_unwritten :
    after (exec (.ckadd 1) base) (fun s => (s.instI.faults, s.instI.ordinary.status, s.instI.sum)) =
      some ([.uninitRead], .halted, none) := by decide

/-- The source's worked example (44_checksum.md R355). -/
theorem test_cksum_example : cksum [0x01, 0x7F, 0xFF] = 120 ∧ cksum [] = 0x07 := by decide

/-! ### Control (45_control.md) -/

/-- R381's example. -/
theorem test_edgeen_discards :
    after (exec .edgeen (withI { base.instI with edgePend := true })) (fun s => (s.instI.edgeEn, s.instI.edgePend)) =
      some (true, false) := by decide

/-- R382's example. -/
theorem test_edgedis_discards :
    after (exec .edgedis (withI { base.instI with edgeEn := true, edgePend := true }))
      (fun s => (s.instI.edgeEn, s.instI.edgePend)) = some (false, false) := by decide

/-- R383's example. -/
theorem test_irqoff_saves :
    after (exec .irqoff base) (fun s => (s.instI.ie, s.instI.ieSaved)) = some (false, some true) := by decide

/-- R384: the saved value, not 1. -/
theorem test_irqon_restores :
    after (exec .irqon (withI { base.instI with ieSaved := some false })) (fun s => s.instI.ie) = some false := by decide

/-! ### Engines (46_initiator.md, 47_target.md) -/

/-- R410. -/
theorem test_initi :
    after (exec .initi base) (fun s => (s.instI.dir, s.instI.olat, s.instI.role, s.instI.st, s.line)) =
      some (.output, true, .initiator, .iIdle, .high) := by decide

/-- R185. -/
theorem test_initi_twice :
    after (exec .initi (withI initiator)) (fun s => (s.instI.faults, s.instI.ordinary.status)) =
      some ([.reinit], .halted) := by decide

/-- R460: the second step of INITT. -/
theorem test_initt_arms :
    after (runMicro .armTarget base) (fun s => (s.instI.edgeEn, s.instI.role, s.instI.st)) =
      some (true, .target, .tArmed) := by decide

/-- R411: a TXN before any init. -/
theorem test_txn_before_init : after (exec .txn base) (fun s => s.instI.faults) = some [.useBeforeInit] := by decide

/-- R412: the first step of TXN. -/
theorem test_txn_starts :
    after (exec .txn (withI initiator)) (fun s => s.instI.ordinary.code.take 2) =
      some [.op .irqoff, .setSt .iReq] := by decide

/-- V100. -/
theorem test_tgtisr_in_sequence : after (exec .tgtisr base) (fun s => s.instI.faults) = some [.illegalOp] := by decide

/-- R462, R121: the byte at IDX is the one sent. -/
theorem test_tgtisr_fetch :
    after
        (runMicro .fetchByte
          { withT { target with idx := some 1 } with cur := { side := .T, kind := .interrupt } })
        (fun s => s.instT.interrupt.code.head?) =
      some (some (.op (.wrbyte 0x7F))) := by decide

/-- R120: the block holds its buffers by reference. A byte that T's host wrote is there after a reset and a new INITT. -/
theorem test_buffers_by_reference :
    after (issueHost .T (withT { target with script := [{ time := 0, move := .store 2 0x55 }] }))
      (fun s =>
        after (runMicro .armTarget { s.resetInst .T with cur := { side := .T, kind := .ordinary } })
          (fun u => (u.instT.role, u.instT.t2iBytes))) =
      some (some (.target, [0x01, 0x7F, 0x55])) := by decide

/-- R120: two descriptors may name one buffer. -/
theorem test_shared_buffer :
    after
        (runMicro .storeRes
          (withI { initiator with
            table := some [{ i2t := 1, t2i := 1 }], idx := some 0, res := some 0xAB }))
        (fun s => (s.instI.table.map fun t => t.map fun e => (s.instI.buffer e.i2t).read 0)) =
      some (some [some 0xAB]) := by decide

/-! ### The functional level (R523; V105 to V108) -/

theorem test_txnF_completed :
    txnF [0x00, 0x00, 0x00] [0x01, 0x7F, 0xFF] True True .none .completed [0x01, 0x7F, 0xFF] := by simp [txnF]

theorem test_txnF_absent : txnF [0xAA] [0x55] False True .none .noResponse [0xAA] := by simp [txnF]

theorem test_txnF_data_error :
    txnF [0x00, 0x00, 0x00] [0x01, 0x7F, 0xFF] True True .arbitrary .dataError [0x01, 0x7E, 0xFF] :=
  .inr (.inr ⟨trivial, trivial, rfl, .inr ⟨[0x01, 0x7E, 0xFF], 0x78, rfl, rfl, by decide⟩⟩)

/-- Undetected corruption. -/
theorem test_txnF_undetected :
    txnF [0x00, 0x00, 0x00] [0x01, 0x7F, 0xFF] True True .arbitrary .completed [0x02, 0x7E, 0xFF] :=
  .inr (.inr ⟨trivial, trivial, rfl, .inr ⟨[0x02, 0x7E, 0xFF], 0x78, rfl, rfl, by decide⟩⟩)

/-- As many bytes as the buffer has. -/
theorem test_txnF_length : ¬ txnF [0x00] [0x01] True True .arbitrary .completed [0x01, 0x02] := by
  simp [txnF]

/-- R386, R512: the latency of a delivery 7 ns after its edge; an edge still pending, since when; one discarded. -/
theorem test_latencies :
    let armed := withT target
    let pending : State := { withT { target with edgePend := true } with now := 3 }
    let later : State := { pending with now := 10 }
    let entered : State := { later with instT := target.enterHandler }
    latencies .T none [armed, pending, later, entered] = [7] ∧ latencies .T none [armed, pending, later] = [] ∧
    waitingSince .T none [armed, pending, later] = some 3 ∧
    waitingSince .T none [armed, pending, later, entered] = none ∧
    waitingSince .T none [armed, pending, { armed with now := 10 }] = none := by decide

/-- A state after a TXN call: is INI idle, and does the handler run. -/
def midTxn (idle isr : Bool) : State :=
  { base with
    instI := { initiator with ordinary := { Context.idle with status := if idle then .idle else .ready } }
    instT := { target with inIsr := isr } }

/-- R512 TP8: from the call to the end of TGTISR, whether TXN returns before it (V101) or after it, and to TXN's return
where no handler comes. -/
theorem test_handler_window :
    let running := midTxn false false
    let both := midTxn false true
    let returned := midTxn true true
    let ended := midTxn true false
    untilHandlerEnds false [running, both, returned, ended, running] = [running, both, returned] ∧
    untilHandlerEnds false [running, both, running, ended] = [running, both] ∧
    untilHandlerEnds false [running, ended, running] = [running] := by decide

/-- R630, V101: a TXN called again while the handler runs moves neither the first one's return nor its end. -/
theorem test_return_then_end :
    let l := [midTxn false true, midTxn true true, midTxn false true, midTxn false false, midTxn true false]
    l.find? State.initiatorIdle = some (midTxn true true) ∧
    (l.dropWhile fun s => !s.initiatorIdle).find? State.handlerOver = some (midTxn false false) := by decide

/-- R512 TP6, R419: the last return of a TXN. -/
theorem test_last_return :
    let a := withI { initiator with st := .iExit .completed }
    let b : State := { withI initiator with now := 5 }
    lastReturn [a, b, { b with now := 9 }] = some 5 ∧ lastReturn [b, b] = none := by decide

/-- R630, R553: a run that recorded a fault is not clean, even after a reset emptied FAULTS. -/
theorem test_clean_sees_trace :
    after (exec .txn base) (fun s => ((s.resetInst .I).instI.faults, (s.resetInst .I).trace.length)) =
      some ([], 1) := by decide

/-! ### The step -/

/-- R66, R610. -/
theorem test_reset : State.reset.line = .high ∧ State.reset.now = 0 ∧ State.reset.instI.role = .unset := by decide

/-- R261: nothing is planned after power-on. -/
theorem test_reset_quiescent : step State.reset = .fault .quiescent := rfl

/-- The word placed is the one that runs. -/
theorem test_fetch_runs :
    after (step (State.reset.withFetchWord 8 0x40)) (fun s => s.instI.sum) = some (some 0x00) := by decide

/-- R557, R558: an illegal word halts the host. -/
theorem test_step_illegal :
    after (step (scripted [0xFF, 0x40])) (fun s => (s.trace, s.instI.ordinary.status, s.instI.sum)) =
      some ([{ side := .I, code := .illegalOp, opcode := 0xFF, time := 0 }], .halted, none) := by decide

/-! ### Witnesses: states that meet the hypotheses of the obligations -/

/-- DecodeOfEncode and DecodeOnlyItsWord: the greatest selector, with a byte after the word. -/
theorem test_witness_decode : (Instr.delay 9).wf = true ∧ decode [0x10, 0x09, 0x40] = .op (.delay 9) [0x40] := by decide

/-- IllegalWords: the ends of the ranges of R184, both ways a P operand is wrong, and the least wrong WRBIT operand. -/
theorem test_witness_illegal_words :
    (0x06 : Byte).toNat = 6 ∧ (0x0F : Byte).toNat = 0x0F ∧ (0x12 : Byte).toNat = 0x12 ∧ (0x63 : Byte).toNat = 0x63 ∧
    (0xFF : Byte).toNat = 0xFF ∧ (0x10 : Byte).toNat / 16 ≠ 0 ∧ 10 ≤ (0x0A : Byte).toNat % 16 ∧
    (0x02 : Byte).toNat / 2 ≠ 0 := by decide

/-- IllegalWords, its last clause, for both kinds of word. -/
theorem test_witness_illegal_issue :
    ((scripted [0xFF]).inst .I).script = { time := 0, move := .words [0xFF] } :: [] ∧
    decodeSequence [0xFF] = .illegalOp 0xFF [] ∧
    ((scripted [0x20, 0x80]).inst .I).script = { time := 0, move := .words [0x20, 0x80] } :: [] ∧
    decodeSequence [0x20, 0x80] = .badOperand 0x20 [] := by decide

/-- StepRunsDecodedWord. -/
theorem test_witness_step_word :
    (scripted [0x01, 0x40]).pick = some (.context { side := .I, kind := .ordinary }) ∧
    ((scripted [0x01, 0x40]).inst .I).ordinary.status = .idle ∧
    ((scripted [0x01, 0x40]).inst .I).script = { time := 0, move := .words [0x01, 0x40] } :: [] ∧
    decodeSequence [0x01, 0x40] = .op .setout [0x40] := by decide

/-- I in the middle of a sequence. -/
def running (ms : List Micro) : State :=
  withI { base.instI with ordinary := { status := .ready, code := ms, opcode := 0x30 } }

/-- StepRunsSequence. -/
theorem test_witness_step_sequence :
    (running [.op .drvl]).pick = some (.context { side := .I, kind := .ordinary }) ∧
    ((running [.op .drvl]).ctx { side := .I, kind := .ordinary }).status ≠ .idle ∧
    ((running [.op .drvl]).ctx { side := .I, kind := .ordinary }).code = .op .drvl :: [] := by decide

/-- I with a word due at 5. -/
def later : State := withI { base.instI with script := [{ time := 5, move := .words [0x01] }] }

/-- TimeAdvance and the second clause of QuiescentStops. -/
theorem test_witness_time_advance :
    (∀ a, later.ready a = false) ∧ later.due (.context { side := .I, kind := .ordinary }) = some 5 := by
  refine ⟨?_, by decide⟩
  rintro (⟨⟨⟩, ⟨⟩⟩ | d | d) <;> first | decide | (cases d <;> decide)

/-- The first clause of QuiescentStops. -/
theorem test_witness_quiescent : ∀ a, base.due a = none := by
  rintro (⟨⟨⟩, ⟨⟩⟩ | d | d) <;> first | decide | (cases d <;> decide)

/-- LineOwnership, with a low line; and a contended one, which its hypothesis shuts out. -/
theorem test_witness_line :
    (withT { base.instT with dir := .output }).line = .low ∧
    ({ withT { base.instT with dir := .output } with instI := initiator } : State).line = .contended := by decide

/-- RdlvlEffect, RdbitEffect: no contention, no noise, a written ACC. -/
theorem test_witness_sample :
    (withI { base.instI with acc := some 0xA5 }).line ≠ .contended ∧ base.params.noise = .none ∧
    (withI { base.instI with acc := some 0xA5 }).self.acc = some 0xA5 := by decide

/-- DelayEffect: the selectors on both sides of the boundary, for its clause on the parameters and the one on the step. -/
theorem test_witness_selector : (9 : BitVec 4).toNat < 10 ∧ 10 ≤ (10 : BitVec 4).toNat := by decide

/-- The host of I runs alone in a state whose instances meet the conditions. -/
theorem alone_of {s : State}
    (h : s.instI.resets = [] ∧ s.instT.resets = [] ∧ s.instI.role ≠ .target ∧ s.instT.role ≠ .target ∧
      s.instI.deliverAt = none ∧ s.instT.deliverAt = none ∧ s.instI.interrupt.status = .idle ∧
      s.instT.interrupt.status = .idle ∧ s.instI.inIsr = false ∧ s.instT.ordinary.status = .idle ∧
      s.instT.script = []) : s.Alone .I :=
  ⟨⟨h.1, h.2.1⟩, ⟨h.2.2.1, h.2.2.2.1⟩, ⟨h.2.2.2.2.1, h.2.2.2.2.2.1⟩, ⟨h.2.2.2.2.2.2.1, h.2.2.2.2.2.2.2.1⟩,
    h.2.2.2.2.2.2.2.2.1, ⟨h.2.2.2.2.2.2.2.2.2.1, h.2.2.2.2.2.2.2.2.2.2⟩⟩

/-- DelayCompletes, WrbitCompletes, WrbyteCompletes, SsyncCompletes, RsyncCompletes, RdbyteCompletes, InittCompletes. -/
theorem test_witness_alone :
    base.Alone .I ∧ base.Issuing .I ∧ param base.params 9 = some 1000 ∧ base.params.noise = .none ∧
    ¬ ((base.inst (Side.other .I)).dir = .output ∧ (base.inst (Side.other .I)).olat = false) ∧
    base.self.role = .unset := by
  exact ⟨alone_of (by decide), ⟨rfl, by decide, by decide⟩, by decide, by decide, by decide, by decide⟩

/-- RdbyteCompletes: a partner that holds the line low. -/
theorem test_witness_alone_low :
    (withT { base.instT with dir := .output }).Alone .I ∧ (withT { base.instT with dir := .output }).Issuing .I ∧
    (withT { base.instT with dir := .output }).line = .low := by
  exact ⟨alone_of (by decide), ⟨rfl, by decide, by decide⟩, by decide⟩

/-- RdbitCompletes. -/
theorem test_witness_alone_acc :
    (withI { base.instI with acc := some 0 }).Alone .I ∧ (withI { base.instI with acc := some 0 }).Issuing .I ∧
    (withI { base.instI with acc := some 0 }).self.acc = some 0 ∧
    (withI { base.instI with acc := some 0 }).line ≠ .contended := by
  exact ⟨alone_of (by decide), ⟨rfl, by decide, by decide⟩, by decide, by decide⟩

/-- WrbyteWaveform, for the first and the last cell. -/
theorem test_witness_waveform :
    base.Alone .I ∧ base.Issuing .I ∧ (base.inst (Side.other .I)).dir = .input ∧ base.params.jDelay = 0 ∧ 0 < 8 ∧
    7 < 8 := by
  exact ⟨alone_of (by decide), ⟨rfl, by decide, by decide⟩, by decide, by decide, by decide, by decide⟩

/-- WaithEffect: both clauses. -/
theorem test_witness_waith :
    base.line = .high ∧ (withT { base.instT with dir := .output }).line = .low ∧ 1 ≤ base.params.jPoll := by decide

/-- I polls a line that T holds low. -/
def polling : State :=
  { withT { base.instT with dir := .output } with
    instI := { base.instI with ordinary := { status := .polling 3, code := [.op .waith, .op (.delay 3)], opcode := 0x31 } } }

/-- WaithNeverTimesOut. -/
theorem test_witness_waith_forever :
    polling.Alone .I ∧ polling.line = .low ∧ (polling.inst .I).ordinary.status = .polling 3 ∧
    (polling.inst .I).ordinary.code = .op .waith :: [.op (.delay 3)] := by
  exact ⟨alone_of (by decide), by decide, by decide, by decide⟩

/-- `base` under noise, with ENV's first draws chosen. -/
def noisy (tape : List Nat) : State :=
  { base with params := { params with noise := .arbitrary }, env := { tape := tape, count := 0 } }

/-- DeserializerValue: the byte 0x5A. -/
theorem test_witness_deserializer :
    (noisy ([false.toNat, 0, true.toNat, 0, false.toNat, 0, true.toNat, 0, true.toNat, 0, false.toNat, 0,
      true.toNat, 0, false.toNat, 0] ++ [])).Alone .I ∧
    (noisy [0, 0]).Issuing .I ∧ (noisy []).params.noise = .arbitrary ∧ ((noisy []).inst .I).edgeEn = false ∧
    ((noisy []).inst .T).edgeEn = false := by
  exact ⟨alone_of (by decide), ⟨rfl, by decide, by decide⟩, by decide, by decide, by decide⟩

/-- ChecksumOperations and EdgeAndMaskOperations, their written clauses. -/
theorem test_witness_written :
    let i := { base.instI with
      sum := some 0x80, res := some 0xFF, ck := some 0x78, ieSaved := some true }
    (withI i).self.sum = some 0x80 ∧ (withI i).self.res = some 0xFF ∧ (withI i).self.ck = some 0x78 ∧
    (withI i).self.ieSaved = some true := by decide

/-- UnwrittenAccRefused, and the refusals of ChecksumOperations and EdgeAndMaskOperations: nothing written, and SUM and CK
written but not RES. -/
theorem test_witness_unwritten :
    base.self.acc = none ∧ base.self.sum = none ∧ base.self.ck = none ∧ base.self.ieSaved = none ∧
    (withI { base.instI with sum := some 0, ck := some 0 }).self.res = none := by decide

/-- ValidationDetectsOneByte: R358's first example and its single-byte neighbour; ChecksumLaws, its second clause. -/
theorem test_witness_checksum_bytes :
    1 < [0x01, (0x7F : Byte)].length ∧ [0x01, (0x7F : Byte)][1] ≠ 0x7E ∧ cksum [0x01, 0x7F] = 0x87 ∧
    cksum [0x01, 0x7E] = 0x78 ∧ cksum [0x02, 0x7E] = 0x87 ∧
    (withI { base.instI with ck := some 0x78, res := some 0x87 }).self.ck = some (cksum ([0x01, 0x7F].set 1 0x7E)) ∧
    (withI { base.instI with ck := some 0x78, res := some 0x87 }).self.res = some (cksum [0x01, 0x7F]) ∧
    (withI { base.instI with ck := some 0x87, res := some 0x87 }).self.ck = some (cksum [0x02, 0x7E]) ∧
    ([0x02, (0x7E : Byte)].map BitVec.toNat).sum % 256 = ([0x01, (0x7F : Byte)].map BitVec.toNat).sum % 256 ∧
    (0x79 : Byte) ≠ cksum [0x01, 0x7E] ∧ [0x01, (0x7F : Byte)].Perm [0x7F, 0x01] := by decide

/-- SetoutEffect, DrvlEffect, DrvhEffect: a fall, and writes that change nothing. -/
theorem test_witness_port :
    after (exec .drvl (withI initiator)) (fun t => t.line) = some .low ∧ (withI initiator).line = .high ∧
    (withI initiator).self.dir = .output ∧ (withI initiator).self.olat = true ∧ base.self.dir = .input ∧
    base.self.olat = false ∧ after (exec .setout base) (fun t => t.line) = some .low ∧ base.line = .high := by decide

/-- EdgeLatching: a fall seen by an enabled and by a disabled detector. -/
theorem test_witness_edge_fall :
    after (exec .drvl { base with instI := initiator, instT := target })
      (fun t => (t.line, t.instT.edgePend, t.instI.edgePend)) = some (.low, true, false) ∧
    ({ base with instI := initiator, instT := target } : State).line = .high ∧ target.edgeEn = true ∧
    initiator.edgeEn = false := by decide

/-- EdgeLatching: a rise that ends a pulse of 1000 ns. -/
theorem test_witness_edge_rise :
    let s : State := { base with
      now := 1000
      instI := { initiator with olat := false }
      instT := { target with edgePend := true, edgeFall := some 0 } }
    s.line = .low ∧ after (exec .drvh s) (fun t => (t.line, t.instT.edgePend)) = some (.high, true) ∧
    (s.inst .T).edgeFall = some 0 ∧ 0 + s.params.wEdgeMin ≤ s.now := by decide

/-- T with a pending edge whose delivery is due. -/
def delivering : State := withT { target with edgePend := true, deliverAt := some 0 }

/-- DeliveryEntersHandler, and OnlyDeliveryEntersHandler for the same step. -/
theorem test_witness_delivery :
    delivering.pick = some (.edge .T) ∧ (delivering.inst .T).role = .target ∧ (delivering.inst .T).edgePend = true ∧
    (delivering.inst .T).ie = true ∧ (delivering.inst .T).inIsr = false ∧
    (delivering.inst .T).interrupt.status = .idle ∧ (delivering.inst .T).deliverAt = some 0 ∧
    after (step delivering) (fun t => (t.inst .T).inIsr) = some true := by decide

/-- T in its handler, about to take its first step. -/
def handling : State :=
  withT { target with
    inIsr := true, ie := false, interrupt := { status := .ready, code := [.op .tgtisr], opcode := 0x63 } }

/-- HandlerReturnEffect: the host was polling when the handler came. -/
theorem test_witness_return :
    (withI { base.instI with ordinary := { status := .polling 3, code := [.op .waith], opcode := 0x11 } }).self.ordinary.status =
      .polling 3 := by decide

/-- The invariant of one instance, as a computation. -/
def instOk (p : Params) (now : Nat) (i : Inst) : Bool :=
  i.buffers.all (Buffer.legal p) && i.table.all (Table.within i.buffers.length) &&
    i.argTable.within i.buffers.length && faultsSorted i.faults && decide (i.role = .unset ↔ i.table = none) &&
    decide (i.edgePend = true → i.edgeEn = true) && i.edgeFall.all (fun t => i.edgePend && decide (t ≤ now)) &&
    i.outc.all (fun c => decide (c.toNat ≤ 2)) && i.idx.all (fun n => decide (n < 2 ^ p.idxW)) &&
    decide (i.ordinary.status = .idle → i.ordinary.code = []) &&
    decide (i.interrupt.status = .idle → i.interrupt.code = []) &&
    decide (Micro.handlerReturn ∉ i.ordinary.code) && i.interrupt.code.all Micro.inHandler &&
    decide (i.inIsr = true → i.ie = false)

theorem inv_of_instOk {p : Params} {now : Nat} {i : Inst} (h : instOk p now i = true) : i.Inv p now := by
  simp only [instOk, Bool.and_eq_true, decide_eq_true_eq, Option.all_eq_true, List.all_eq_true] at h
  obtain ⟨⟨⟨⟨⟨⟨⟨⟨⟨⟨⟨⟨⟨h0, h1⟩, h2⟩, h3⟩, h4⟩, h5⟩, h6⟩, h7⟩, h8⟩, h9⟩, h10⟩, h11⟩, h12⟩, h13⟩ := h
  exact ⟨h0, h1, h2, h3, h4, h5, h6, h7, h8, fun k => by cases k; exacts [h9, h10], h11, h12, h13⟩

/-- A state whose trace is empty has the invariant where both instances pass the computation. -/
theorem inv_of {s : State}
    (h : instOk s.params s.now s.instI = true ∧ instOk s.params s.now s.instT = true ∧ s.trace = []) : s.Inv :=
  ⟨inv_of_instOk h.1, inv_of_instOk h.2.1, by simp [h.2.2], by simp [h.2.2]⟩

/-- The invariant holds in `base`. -/
theorem test_witness_inv_base : base.Inv := inv_of (by decide)

/-- HandlerSeesOneCopy. -/
theorem test_witness_handler_inv : handling.Inv := inv_of (by decide)

theorem test_witness_handler_step :
    (handling.inst .T).inIsr = true ∧ handling.pick ≠ some (.reset .T) ∧
    after (step handling) (fun t => t.now) = some 0 := by decide

/-- HandlerSeesOneCopy: a reset of T is due, and the handler's step is picked before it. -/
theorem test_witness_handler_reset_due :
    let s : State := { handling with
      instT := { handling.instT with resets := [0] }, env := { tape := [0], count := 0 } }
    s.ready (.reset .T) = true ∧ s.pick = some (.context { side := .T, kind := .interrupt }) ∧
    after (step s) (fun t => t.instT.resets) = some [0] := by decide

/-- HandlerRunsToReturn. -/
theorem test_witness_handler_run :
    (handling.inst .I).resets = [] ∧ (handling.inst .T).resets = [] ∧ (handling.inst .I).deliverAt = none ∧
    (handling.inst .T).deliverAt = none ∧ (handling.inst (Side.other .T)).role ≠ .target ∧
    (handling.inst (Side.other .T)).interrupt.status = .idle ∧ (handling.inst (Side.other .T)).ordinary.status = .idle ∧
    (handling.inst (Side.other .T)).script = [] ∧ (handling.inst (Side.other .T)).dir = .input ∧
    (handling.inst .T).interrupt = { status := .ready, code := [.op .tgtisr], opcode := 0x63 } ∧
    ((handling.inst .T).desc.map fun e => ((handling.inst .T).buffer e.t2i).len) = some 3 ∧ 3 < 2 ^ handling.params.idxW := by decide

/-- InitiEffect, InittCompletes; ReinitRefused; the clauses of TxnChecksAndStart by role. -/
theorem test_witness_roles :
    base.self.role = .unset ∧ (withI initiator).self.role = .initiator ∧ (withI initiator).self.desc.isSome = true ∧
    (withI { initiator with table := some [] }).self.desc = none ∧
    ({ withT target with cur := { side := .T, kind := .ordinary } } : State).self.role = .target := by decide

/-- TxnNoResponse. -/
theorem test_witness_no_response :
    (withI initiator).Alone .I ∧ (withI initiator).Issuing .I ∧ (withI initiator).self.role = .initiator ∧
    (withI initiator).self.desc.isSome = true ∧ ((withI initiator).inst (Side.other .I)).dir = .input ∧
    (withI initiator).params.noise = .none := by
  exact ⟨alone_of (by decide), ⟨rfl, by decide, by decide⟩, by decide, by decide, by decide, by decide⟩

/-- An initiator under noise, its presence sample chosen. -/
def noisyTxn (p : Bool) : State := { noisy [0, 0, p.toNat] with instI := initiator }

/-- TxnUnderNoise: its invariant, for either sample. -/
theorem test_witness_txn_inv : (noisyTxn true).Inv ∧ (noisyTxn false).Inv :=
  ⟨inv_of (by decide), inv_of (by decide)⟩

/-- TxnUnderNoise: its other hypotheses. -/
theorem test_witness_txn_noise :
    (noisyTxn false).Alone .I ∧ (noisyTxn false).Issuing .I ∧ (noisyTxn false).self.role = .initiator ∧
    ((noisyTxn false).self.desc.map fun e => ((noisyTxn false).self.buffer e.t2i).len) = some 3 ∧ 3 < 2 ^ (noisyTxn false).params.idxW ∧
    ((noisyTxn false).inst (Side.other .I)).dir = .input ∧ (noisyTxn false).params.noise = .arbitrary ∧
    ((noisyTxn false).inst .I).edgeEn = false ∧ ((noisyTxn false).inst .T).edgeEn = false ∧
    (noisyTxn false).env.tape = 0 :: 0 :: false.toNat :: [] ∧
    (noisyTxn true).env.tape = 0 :: 0 :: true.toNat :: [] := by
  exact ⟨alone_of (by decide), ⟨rfl, by decide, by decide⟩, by decide, by decide, by decide, by decide, by decide,
    by decide, by decide, by decide, by decide⟩

/-- An initiator that has received the byte 0xAB for index `i`. -/
def storing (i : Nat) : State := withI { initiator with idx := some i, res := some 0xAB }

/-- EngineStore: the last index in range and the first out of it. -/
theorem test_witness_store :
    (storing 2).self.idx = some 2 ∧ (storing 2).self.res = some 0xAB ∧
    ((storing 2).self.desc.map fun e => ((storing 2).self.buffer e.t2i).len) = some 3 ∧ 2 < 3 ∧ 3 ≤ 3 ∧
    after (runMicro .storeRes (storing 2)) (fun t => (t.self.byteAt 1 2, t.self.byteAt 1 1)) =
      some (some 0xAB, some 0x00) ∧
    after (runMicro .storeRes (storing 3)) (fun t => t.self.faults) = some [.badIndex] := by decide

/-- EngineStore: the invariant. -/
theorem test_witness_store_inv : (storing 2).Inv ∧ (storing 3).Inv :=
  ⟨inv_of (by decide), inv_of (by decide)⟩

/-- HandlerStart: both contexts, and a target with an empty table. -/
theorem test_witness_handler_start :
    base.cur.kind = .ordinary ∧
    ({ handling with cur := { side := .T, kind := .interrupt } } : State).self.desc.isSome = true ∧
    ({ withT { target with table := some [] } with cur := { side := .T, kind := .interrupt } } : State).self.desc =
      none := by decide

/-- T's host about to write index `k` of its buffer. -/
def hostStoring (k : Nat) : State := withT { target with script := [{ time := 0, move := .store k 0x55 }] }

/-- HostStore: the last index in range and the first out of it. -/
theorem test_witness_host_store :
    ((hostStoring 2).inst .T).script = { time := 0, move := .store 2 0x55 } :: [] ∧
    ((hostStoring 2).inst .T).role = .target ∧ (((hostStoring 2).inst .T).desc.map fun e => (((hostStoring 2).inst .T).buffer e.t2i).len) = some 3 ∧
    after (issueHost .T (hostStoring 2)) (fun t => (t.inst .T).byteAt 1 2) = some (some 0x55) ∧
    after (issueHost .T (hostStoring 3)) (fun t => (t.inst .T).faults) = some [.badIndex] := by decide

/-- HostStore: the invariant. -/
theorem test_witness_host_store_inv : (hostStoring 2).Inv ∧ (hostStoring 3).Inv :=
  ⟨inv_of (by decide), inv_of (by decide)⟩

/-- OneControllerReset. -/
theorem test_witness_reset : (withI { initiator with resets := [0] }).pick = some (.reset .I) := by decide

/-- OneControllerReset: the move due now goes and the next one stays; a halted host stays halted, a busy engine becomes
idle. -/
theorem test_witness_reset_host :
    let item (n : Nat) : HostItem := { time := n, move := .words [0x01] }
    let i := { initiator with resets := [0], script := [item 0, item 1] }
    let halted := { i with ordinary := { status := .halted, code := [], opcode := 0xFF } }
    let busy := { i with ordinary := { status := .sleeping 9, code := [.op .drvh], opcode := 0x30 } }
    (withI halted).pick = some (.reset .I) ∧ (withI busy).pick = some (.reset .I) ∧
    after (step (withI halted)) (fun t => (t.instI.script, t.instI.ordinary)) =
      some ([item 1], { status := .halted, code := [], opcode := 0 }) ∧
    after (step (withI busy)) (fun t => t.instI.ordinary) = some { status := .idle, code := [], opcode := 0 } := by
  decide

/-- EveryStepKeepsInvariant, NowNeverDecreases, OperationsWriteOnlyTheirs, OperationsLeaveTheRest: a step that answers
a next state, from a state with the invariant. -/
theorem test_witness_step_inv :
    after (step handling) (fun t => t.now) = some 0 ∧ after (exec .drvl base) (fun t => t.self.olat) = some false := by
  decide

/-- FaultsAreSticky: a recorded fault, and a reset of its controller due, with the other host's step picked before it. -/
theorem test_witness_sticky :
    let s : State := { scripted [0x40] with
      instT := { base.instT with faults := [.lineContention], resets := [0] }, env := { tape := [0], count := 0 } }
    s.ready (.reset .T) = true ∧ s.pick ≠ some (.reset .T) ∧
    after (step s) (fun t => t.instT.faults) = some [.lineContention] := by decide

/-- HaltedStaysHalted: a halted host, and the partner about to step. -/
def halted : State :=
  { scripted [0x40] with
    instT := { base.instT with ordinary := { status := .halted, code := [], opcode := 0xFF } } }

theorem test_witness_halted :
    (halted.ctx { side := .T, kind := .ordinary }).status = .halted ∧
    after (step halted) (fun t => (t.ctx { side := .T, kind := .ordinary }).status) = some .halted := by decide

theorem test_witness_halted_inv : halted.Inv := inv_of (by decide)

/-- TimingPremiseNominal: a latency at the bound, and one in it. -/
theorem test_witness_timing : 1000 ≤ 1000 ∧ ∀ lam, lam = 5000 ∨ lam = 24999 → lam ≤ 24999 := by
  refine ⟨by decide, ?_⟩
  rintro lam (rfl | rfl) <;> decide

/-- T holds the line low, and its host drives it high at 50. -/
def releasing : State :=
  withT { base.instT with dir := .output, script := [{ time := 50, move := .words [0x03] }] }

/-- RsyncWaitsForRelease. -/
theorem test_witness_release :
    (releasing.setInst (Side.other .I) { releasing.inst (Side.other .I) with script := [] }).Alone .I ∧
    releasing.Issuing .I ∧ 1 ≤ releasing.params.jPoll ∧
    (releasing.inst (Side.other .I)).script = [{ time := 50, move := .words [0x03] }] ∧ releasing.now < 50 ∧
    (releasing.inst (Side.other .I)).dir = .output ∧ (releasing.inst (Side.other .I)).olat = false ∧
    (releasing.inst (Side.other .I)).inIsr = false := by
  exact ⟨alone_of (by decide), ⟨rfl, by decide, by decide⟩, by decide, by decide, by decide, by decide, by decide,
    by decide⟩

/-- WaithEffect, EdgeLatching: a contended line, with ENV's next draw of either bit, and a write that makes it so. -/
def contended (draw : Nat) : State :=
  { withT { base.instT with dir := .output } with instI := initiator, env := { tape := [draw], count := 0 } }

theorem test_witness_contended :
    (contended 1).line = .contended ∧ drawBit (contended 1).drawn = true ∧ drawBit (contended 0).drawn = false ∧
    1 ≤ (contended 0).params.jPoll ∧
    (let s : State := { withT { base.instT with dir := .output, edgeEn := true } with
      instI := { initiator with dir := .input }, env := { tape := [1], count := 0 } }
    s.line = .low ∧ (∀ d, (s.inst d).edgeFall = none) ∧
      after (exec .setout s) (fun t => (t.line, t.instT.edgePend)) = some (.contended, true)) := by
  refine ⟨by decide, by decide, by decide, by decide, by decide, ?_, by decide⟩
  intro d
  cases d <;> rfl

end Sys2Proof.Tests
end

section
/-! PROOFS of the obligations about the state (10_state.md). One inversion lemma, `runMicro_microEffect`, says what a
zero-time step can write and what control state it can change besides; the invariant and the frame of each field follow
from it. `step_cases` says the same of the steps of the link. -/

namespace Sys2Proof.Machine

/-! ### The parts of the invariant -/

/-- The steps that a context of each kind may have in its code: the host's and the initiator's never return from the
handler (R387), and the handler's are those of its own sequence (R462). -/
def ContextKind.mayRun : ContextKind → Micro → Bool
  | .ordinary, m => decide (m ≠ .handlerReturn)
  | .interrupt, m => m.inHandler

/-- What the invariant says of a context. -/
structure Context.Ok (k : ContextKind) (x : Context) : Prop where
  idleDone : x.status = .idle → x.code = []
  code : ∀ m ∈ x.code, k.mayRun m = true

/-- What the invariant says of the contexts of a controller. -/
def Inst.CodeOk (i : Inst) : Prop := ∀ k, (i.ctx k).Ok k

/-- What the invariant says of the edge detector of a controller. -/
structure Inst.EdgesOk (now : Nat) (i : Inst) : Prop where
  pendEnabled : i.edgePend = true → i.edgeEn = true
  fallPending : ∀ t, i.edgeFall = some t → i.edgePend = true ∧ t ≤ now

/-- What the invariant says of the trace. -/
structure State.TraceOk (s : State) : Prop where
  ordered : s.trace.Pairwise fun a b => a.time ≤ b.time
  past : ∀ r ∈ s.trace, r.time ≤ s.now

/-- `j` is `i` but for its control state: what its detector latched, its fault record and its two contexts. -/
def SameButControl (i j : Inst) : Prop :=
  j = { i with
    edgePend := j.edgePend, edgeFall := j.edgeFall, faults := j.faults
    ordinary := j.ordinary, interrupt := j.interrupt }

theorem SameButControl.refl (i : Inst) : SameButControl i i := rfl

theorem SameButControl.trans {i j k : Inst} (h1 : SameButControl i j) (h2 : SameButControl j k) :
    SameButControl i k := by
  unfold SameButControl at *
  rw [h1] at h2
  exact h2

theorem SameButControl.dir_eq {i j : Inst} (h : SameButControl i j) : j.dir = i.dir := by rw [h]

theorem SameButControl.olat_eq {i j : Inst} (h : SameButControl i j) : j.olat = i.olat := by rw [h]

theorem SameButControl.setPort {i j : Inst} (h : SameButControl i j) (dir : Dir) (olat : Bool) :
    SameButControl { i with dir := dir, olat := olat } { j with dir := dir, olat := olat } := by
  unfold SameButControl at *
  rw [h]

theorem SameButControl.setRole {i j : Inst} (h : SameButControl i j) (r : Role) (st : EngineState) :
    SameButControl { i with role := r, st := st } { j with role := r, st := st } := by
  unfold SameButControl at *
  rw [h]

theorem SameButEdges.sameButControl {i j : Inst} (h : SameButEdges i j) : SameButControl i j := by
  unfold SameButEdges at h
  unfold SameButControl
  rw [h]

theorem SameGlobals.now_eq {s t : State} (h : SameGlobals s t) : t.now = s.now := h.1

theorem SameGlobals.params_eq {s t : State} (h : SameGlobals s t) : t.params = s.params := h.2.1

theorem SameGlobals.cur_eq {s t : State} (h : SameGlobals s t) : t.cur = s.cur := h.2.2

theorem Inst.Inv.codeOk {p : Params} {now : Nat} {i : Inst} (h : i.Inv p now) : i.CodeOk
  | .ordinary => ⟨h.idleDone .ordinary, fun m hm => by
      have hne : m ≠ .handlerReturn := fun he => h.hostCode (he ▸ hm)
      simpa [ContextKind.mayRun] using hne⟩
  | .interrupt => ⟨h.idleDone .interrupt, h.handlerCode⟩

theorem Inst.Inv.edgesOk {p : Params} {now : Nat} {i : Inst} (h : i.Inv p now) : i.EdgesOk now :=
  ⟨h.pendEnabled, h.fallPending⟩

/-- The invariant holds of a controller whose control state alone is new, where the new one is as the invariant says. -/
theorem Inst.Inv.of_sameButControl {p : Params} {now : Nat} {i j : Inst} (h : i.Inv p now) (hs : SameButControl i j)
    (hf : faultsSorted j.faults = true) (he : j.EdgesOk now) (hc : j.CodeOk) : j.Inv p now := by
  have hi : Inst.Inv p now { i with
      edgePend := j.edgePend, edgeFall := j.edgeFall, faults := j.faults
      ordinary := j.ordinary, interrupt := j.interrupt } :=
    { h with
      faultsWf := hf
      pendEnabled := fun hp => by
        have := he.pendEnabled hp
        rwa [hs] at this
      fallPending := he.fallPending
      idleDone := fun
        | .ordinary => (hc .ordinary).idleDone
        | .interrupt => (hc .interrupt).idleDone
      hostCode := fun hm => by simpa [ContextKind.mayRun] using (hc .ordinary).code _ hm
      handlerCode := (hc .interrupt).code }
  exact hs ▸ hi

theorem Inst.Inv.setCtx {p : Params} {now : Nat} {i : Inst} (h : i.Inv p now) {k : ContextKind} {x : Context}
    (hx : x.Ok k) : (i.setCtx k x).Inv p now := by
  cases k with
  | ordinary =>
    exact { h with
      idleDone := fun
        | .ordinary => hx.idleDone
        | .interrupt => h.idleDone .interrupt
      hostCode := fun hm => by simpa [ContextKind.mayRun] using hx.code _ hm }
  | interrupt =>
    exact { h with
      idleDone := fun
        | .ordinary => h.idleDone .ordinary
        | .interrupt => hx.idleDone
      handlerCode := hx.code }

/-- As time passes, the invariant stays. -/
theorem Inst.Inv.mono_now {p : Params} {now later : Nat} {i : Inst} (h : i.Inv p now) (hn : now ≤ later) :
    i.Inv p later :=
  { h with fallPending := fun t ht => ⟨(h.fallPending t ht).1, (h.fallPending t ht).2.trans hn⟩ }

/-- The invariant of the link, by its parts. -/
theorem State.inv_iff {s : State} : s.Inv ↔ (∀ d, (s.inst d).Inv s.params s.now) ∧ s.TraceOk where
  mp h := ⟨fun
    | .I => h.instI
    | .T => h.instT, h.traceOrdered, h.tracePast⟩
  mpr h := ⟨h.1 .I, h.1 .T, h.2.ordered, h.2.past⟩

theorem State.Inv.inst {s : State} (h : s.Inv) (d : Side) : (s.inst d).Inv s.params s.now := (State.inv_iff.mp h).1 d

theorem State.Inv.self {s : State} (h : s.Inv) : s.self.Inv s.params s.now := h.inst s.cur.side

theorem State.Inv.traceOk {s : State} (h : s.Inv) : s.TraceOk := (State.inv_iff.mp h).2

theorem State.Inv.setInst {s : State} (h : s.Inv) {d : Side} {i : Inst} (hi : i.Inv s.params s.now) :
    (s.setInst d i).Inv := by
  cases d with
  | I => exact { h with instI := hi }
  | T => exact { h with instT := hi }

theorem State.Inv.setCtx {s : State} (h : s.Inv) {c : ContextId} {x : Context} (hx : x.Ok c.kind) :
    (s.setCtx c x).Inv := h.setInst ((h.inst c.side).setCtx hx)

theorem State.Inv.withCur {s : State} (h : s.Inv) (c : ContextId) : State.Inv { s with cur := c } := { h with }

theorem State.Inv.afterDraw {s : State} (h : s.Inv) : s.afterDraw.Inv := { h with }

theorem Context.Ok.of_ne_idle {k : ContextKind} {x : Context} (h : x.status ≠ .idle)
    (hcode : ∀ m ∈ x.code, k.mayRun m = true) : x.Ok k := ⟨fun hi => absurd hi h, hcode⟩

theorem Context.Ok.of_code_nil {k : ContextKind} {x : Context} (h : x.code = []) : x.Ok k :=
  ⟨fun _ => h, by simp [h]⟩

/-! ### The edge detectors -/

theorem DetectedBoth.edgesOk {s t : State} (h : DetectedBoth s t) {d : Side} (hs : (s.inst d).EdgesOk s.now) :
    (t.inst d).EdgesOk s.now where
  pendEnabled hp := by
    have hen : (t.inst d).edgeEn = (s.inst d).edgeEn := by rw [h.inst d]
    by_contra hne
    have hoff : (s.inst d).edgeEn = false := by simpa [hen] using hne
    rw [h.disabled d hoff] at hp
    exact absurd (hs.pendEnabled hp) (by simp [hoff])
  fallPending := h.fall d hs.fallPending

theorem SameButEdges.codeOk {i j : Inst} (h : SameButEdges i j) (hi : i.CodeOk) : j.CodeOk := by
  rw [h]
  exact fun
    | .ordinary => hi .ordinary
    | .interrupt => hi .interrupt

theorem SameButEdges.faults_eq {i j : Inst} (h : SameButEdges i j) : j.faults = i.faults := by rw [h]

theorem Inst.Inv.of_sameButEdges {p : Params} {now : Nat} {i j : Inst} (h : i.Inv p now) (hs : SameButEdges i j)
    (he : j.EdgesOk now) : j.Inv p now :=
  h.of_sameButControl hs.sameButControl (hs.faults_eq ▸ h.faultsWf) he (hs.codeOk h.codeOk)

/-- What the detectors do to a state keeps the invariant (R380). -/
theorem State.Inv.detectBoth {s : State} (h : s.Inv) (before after : Line) : (s.detectBoth before after).Inv := by
  have hd := s.detectBoth_spec before after
  obtain ⟨hnow, hparams, -⟩ := hd.globals
  refine State.inv_iff.mpr ⟨fun d => ?_, ?_⟩
  · rw [hnow, hparams]
    exact (h.inst d).of_sameButEdges (hd.inst d) (hd.edgesOk (h.inst d).edgesOk)
  · exact ⟨hd.trace ▸ h.traceOrdered, by rw [hd.trace, hnow]; exact h.tracePast⟩

/-! ### What a zero-time step can do -/

/-- From `s` to `t` the controller whose operation runs got the fields of `i`, and beyond that only control state
changed: its latched edge, its fault record and its contexts, the partner's latched edge, the trace, ENV's draws. All of
it keeps the form that the invariant asks for; of the contexts this is so where `may` holds. -/
structure Effect (may : Prop) (s : State) (i : Inst) (t : State) : Prop where
  globals : SameGlobals s t
  self : SameButControl i t.self
  faults : faultsSorted i.faults = true → faultsSorted t.self.faults = true
  edges : i.EdgesOk s.now → t.self.EdgesOk s.now
  contexts : may → i.CodeOk → t.self.CodeOk
  partner : SameButEdges (s.inst s.cur.side.other) (t.inst s.cur.side.other)
  partnerEdges : (s.inst s.cur.side.other).EdgesOk s.now → (t.inst s.cur.side.other).EdgesOk s.now
  trace : ∃ l, t.trace = s.trace ++ l ∧ ∀ r ∈ l, r.time = s.now

section
variable {may : Prop} {s t u : State} {i : Inst}

/-- Another effect after the first, with no field written in it. -/
theorem Effect.trans (h1 : Effect may s i t) (h2 : Effect may t t.self u) : Effect may s i u := by
  obtain ⟨hnow, hparams, hcur⟩ := h1.globals
  obtain ⟨l1, ht1, hl1⟩ := h1.trace
  obtain ⟨l2, ht2, hl2⟩ := h2.trace
  have hedges := h2.edges
  have hpartner := h2.partner
  have hpartnerEdges := h2.partnerEdges
  simp only [hnow, hcur] at hedges hpartner hpartnerEdges hl2
  exact {
    globals := ⟨h2.globals.now_eq.trans hnow, h2.globals.params_eq.trans hparams, h2.globals.cur_eq.trans hcur⟩
    self := h1.self.trans h2.self
    faults := h2.faults ∘ h1.faults
    edges := hedges ∘ h1.edges
    contexts := fun hm => h2.contexts hm ∘ h1.contexts hm
    partner := h1.partner.trans hpartner
    partnerEdges := hpartnerEdges ∘ h1.partnerEdges
    trace := ⟨l1 ++ l2, by rw [ht2, ht1, List.append_assoc], fun r hr =>
      (List.mem_append.mp hr).elim (hl1 r) (hl2 r)⟩ }

theorem Effect.setSelf (may : Prop) (s : State) (i : Inst) : Effect may s i (s.setSelf i) where
  globals := ⟨by simp, by simp, by simp⟩
  self := by rw [State.self_setSelf]; exact SameButControl.refl i
  faults := by simp
  edges := by simp
  contexts := by simp
  partner := by rw [State.setSelf_other]; exact SameButEdges.refl _
  partnerEdges := by simp
  trace := ⟨[], by simp, by simp⟩

theorem Effect.refl (may : Prop) (s : State) : Effect may s s.self s := by simpa using Effect.setSelf may s s.self

theorem Effect.afterDraw (may : Prop) (s : State) : Effect may s s.self s.afterDraw :=
  have h := Effect.refl may s
  { globals := h.globals
    self := by simpa using h.self
    faults := by simp
    edges := by simp
    contexts := by simp
    partner := by simpa using h.partner
    partnerEdges := by simp
    trace := h.trace }

theorem Effect.raiseFault (may : Prop) (s : State) (code : FaultCode) :
    Effect may s s.self (s.raiseFault code) where
  globals := ⟨by simp, by simp, by simp⟩
  self := by simp [SameButControl]
  faults := by simpa using faultsSorted_insertFault code
  edges h := by
    rw [State.self_raiseFault]
    exact { h with }
  contexts _ h := by
    rw [State.self_raiseFault]
    exact fun
      | .ordinary => h .ordinary
      | .interrupt => h .interrupt
  partner := by simpa using SameButEdges.refl _
  partnerEdges := by simp
  trace := ⟨_, State.raiseFault_trace s code, by simp⟩

theorem Effect.detectBoth (may : Prop) (s : State) (before after : Line) :
    Effect may s s.self (s.detectBoth before after) :=
  have h := s.detectBoth_spec before after
  have hself : (s.detectBoth before after).self = (s.detectBoth before after).inst s.cur.side := by
    rw [State.self, h.globals.cur_eq]
  { globals := h.globals
    self := hself ▸ (h.inst _).sameButControl
    faults := by rw [hself, (h.inst _).faults_eq]; exact id
    edges := fun he => hself ▸ h.edgesOk he
    contexts := fun _ hc => hself ▸ (h.inst _).codeOk hc
    partner := h.inst _
    partnerEdges := h.edgesOk
    trace := ⟨[], by simp [h.trace], by simp⟩ }

theorem Inst.sameButControl_setCtx (i : Inst) (k : ContextKind) (x : Context) : SameButControl i (i.setCtx k x) := by
  cases k <;> rfl

theorem Inst.CodeOk.setCtx (h : i.CodeOk) {k : ContextKind} {x : Context} (hx : x.Ok k) : (i.setCtx k x).CodeOk := by
  intro l
  by_cases hl : l = k
  · subst hl
    simpa using hx
  · rw [Inst.ctx_setCtx_ne i x hl]
    exact h l

theorem Effect.setCtx {x : Context} (hx : may → (s.ctx s.cur).Ok s.cur.kind → x.Ok s.cur.kind) :
    Effect may s s.self (s.setCtx s.cur x) :=
  have hself : (s.setCtx s.cur x).self = s.self.setCtx s.cur.kind x := by simp [State.self, State.setCtx]
  { globals := ⟨by simp, by simp, by simp⟩
    self := hself ▸ Inst.sameButControl_setCtx _ _ _
    faults := by simp [hself]
    edges := fun h => by
      rw [hself]
      cases s.cur.kind <;> exact { h with }
    contexts := fun hm h => hself ▸ h.setCtx (hx hm (h s.cur.kind))
    partner := by rw [State.setCtx_other]; exact SameButEdges.refl _
    partnerEdges := by simp
    trace := ⟨[], by simp, by simp⟩ }

/-- `j` has the control state of `i`, and its enable of detection. -/
structure SameControl (i j : Inst) : Prop where
  edgeEn : j.edgeEn = i.edgeEn
  edgePend : j.edgePend = i.edgePend
  edgeFall : j.edgeFall = i.edgeFall
  faults : j.faults = i.faults
  ordinary : j.ordinary = i.ordinary
  interrupt : j.interrupt = i.interrupt

theorem SameControl.edgesOk_iff {i j : Inst} (h : SameControl i j) {now : Nat} : j.EdgesOk now ↔ i.EdgesOk now := by
  constructor <;> rintro ⟨hp, hf⟩ <;> constructor <;> simp_all [h.edgeEn, h.edgePend, h.edgeFall]

theorem SameControl.codeOk_iff {i j : Inst} (h : SameControl i j) : j.CodeOk ↔ i.CodeOk := by
  have hctx : ∀ k, j.ctx k = i.ctx k := fun
    | .ordinary => h.ordinary
    | .interrupt => h.interrupt
  simp only [Inst.CodeOk, hctx]

/-- A write of the controller's own fields after the effect is the effect with these fields written. -/
theorem Effect.write {j k : Inst} (h : Effect may s i t) (hj : SameControl i j) (hk : SameControl t.self k)
    (hs : SameButControl j k) : Effect may s j (t.setSelf k) where
  globals := by simpa [SameGlobals] using h.globals
  self := by simpa using hs
  faults := by simpa [hj.faults, hk.faults] using h.faults
  edges := by simpa [hj.edgesOk_iff, hk.edgesOk_iff] using h.edges
  contexts := by simpa [hj.codeOk_iff, hk.codeOk_iff] using h.contexts
  partner := by
    rw [← h.globals.cur_eq, State.setSelf_other, h.globals.cur_eq]
    exact h.partner
  partnerEdges := by
    rw [← h.globals.cur_eq, State.setSelf_other, h.globals.cur_eq]
    exact h.partnerEdges
  trace := by simpa using h.trace

theorem Effect.writePort (h : Effect may s i t) (dir : Dir) (olat : Bool) :
    Effect may s { i with dir := dir, olat := olat } (t.writePort dir olat) := by
  have hset : Effect may s { i with dir := dir, olat := olat }
      (t.setSelf { t.self with dir := dir, olat := olat }) :=
    h.write ⟨rfl, rfl, rfl, rfl, rfl, rfl⟩ ⟨rfl, rfl, rfl, rfl, rfl, rfl⟩ (h.self.setPort dir olat)
  rw [State.writePort_eq]
  refine Effect.trans ?_ (Effect.detectBoth may _ _ _)
  unfold State.portMid
  simp only
  split
  · exact hset.trans (Effect.raiseFault may _ _)
  · exact hset

theorem Effect.writeDir (h : Effect may s i t) (dir : Dir) :
    Effect may s { i with dir := dir } (t.writeDir dir) := by
  rw [State.writeDir, h.self.olat_eq]
  exact h.writePort dir i.olat

theorem Effect.writeOlat (h : Effect may s i t) (olat : Bool) :
    Effect may s { i with olat := olat } (t.writeOlat olat) := by
  rw [State.writeOlat, h.self.dir_eq]
  exact h.writePort i.dir olat

theorem Effect.refuse (h : Effect may s i t) (code : FaultCode) : Effect may s i (t.refuse code) :=
  (h.trans (Effect.raiseFault may t code)).trans (Effect.setCtx fun _ _ => Context.Ok.of_code_nil rfl)

theorem Effect.afterSample (may : Prop) (s : State) : Effect may s s.self s.afterSample := by
  rcases s.afterSample_cases with h | h <;> rw [h]
  · exact Effect.refl may s
  · exact Effect.afterDraw may s

theorem State.setSelf_afterDraw (s : State) (i : Inst) : s.afterDraw.setSelf i = (s.setSelf i).afterDraw := by
  unfold State.setSelf
  rw [State.afterDraw_cur]
  cases s.cur.side <;> rfl

theorem Effect.sampleThenSetSelf (may : Prop) (s : State) (i : Inst) : Effect may s i (s.afterSample.setSelf i) := by
  rcases s.afterSample_cases with h | h <;> rw [h]
  · exact Effect.setSelf may s i
  · rw [State.setSelf_afterDraw]
    exact (Effect.setSelf may s i).trans (Effect.afterDraw may _)

theorem Effect.afterPoll (may : Prop) (s : State) : Effect may s s.self s.afterPoll := by
  rcases s.afterPoll_cases with h | h <;> rw [h]
  · exact Effect.refl may s
  · exact Effect.afterDraw may s

theorem Effect.load (h : Effect may s i t) {ms : List Micro} (hms : may → ∀ m ∈ ms, s.cur.kind.mayRun m = true) :
    Effect may s i (t.load ms) := by
  rw [← h.globals.cur_eq] at hms
  exact h.trans <| Effect.setCtx fun hm hx =>
    .of_ne_idle nofun fun m hmem => (List.mem_append.mp hmem).elim (hms hm m) (hx.code m)

theorem Effect.goto (h : Effect may s i t) {ms : List Micro} (hms : may → ∀ m ∈ ms, s.cur.kind.mayRun m = true) :
    Effect may s i (t.goto ms) := by
  rw [← h.globals.cur_eq] at hms
  exact h.trans <| Effect.setCtx fun hm _ => .of_ne_idle nofun (hms hm)

theorem Effect.sleep (may : Prop) (s : State) (d : Nat) : Effect may s s.self (s.sleep d) :=
  (Effect.afterDraw may s).trans <| Effect.setCtx fun _ hx => .of_ne_idle nofun hx.code

theorem Effect.pollAgain (h : Effect may s i t) (hw : may → s.cur.kind.mayRun (.op .waith) = true) :
    Effect may s i t.pollAgain := by
  rw [← h.globals.cur_eq] at hw
  exact h.trans <| (Effect.afterDraw may t).trans <| Effect.setCtx fun hm hx =>
    .of_ne_idle nofun fun m hmem => (List.mem_cons.mp hmem).elim (fun he => he ▸ hw hm) (hx.code m)

end

/-! ### Which zero-time step writes what -/

/-- The step `m` taken in `s` writes the fields of its controller so that it becomes `i`; control state is not counted,
but for what the return from the handler does to the contexts. -/
inductive Writes (s : State) : Micro → Inst → Prop
  | nothing (m : Micro) : Writes s m s.self
  | setout : Writes s (.op .setout) { s.self with dir := .output }
  | setin : Writes s (.op .setin) { s.self with dir := .input }
  | drvh : Writes s (.op .drvh) { s.self with olat := true }
  | drvl : Writes s (.op .drvl) { s.self with olat := false }
  | rdlvl : Writes s (.op .rdlvl) { s.self with res := some (zext8 s.sample) }
  | rdbit (a : Byte) (hacc : s.self.acc = some a) :
      Writes s (.op .rdbit) { s.self with acc := some (shiftIn a s.sample) }
  | ckclr : Writes s (.op .ckclr) { s.self with sum := some 0 }
  | ckadd (v x : Byte) (hsum : s.self.sum = some x) :
      Writes s (.op (.ckadd v)) { s.self with sum := some (sumAdd x v) }
  | ckaddr (x v : Byte) (hsum : s.self.sum = some x) (hres : s.self.res = some v) :
      Writes s (.op .ckaddr) { s.self with sum := some (sumAdd x v) }
  | ckfold (x : Byte) (hsum : s.self.sum = some x) : Writes s (.op .ckfold) { s.self with ck := some (fold x) }
  | ckcmp (c v : Byte) (hck : s.self.ck = some c) (hres : s.self.res = some v) :
      Writes s (.op .ckcmp) { s.self with matchFlag := some (matches8 c v) }
  | edgeen : Writes s (.op .edgeen) s.self.enableEdges
  | edgedis : Writes s (.op .edgedis) s.self.disableEdges
  | irqoff : Writes s (.op .irqoff) s.self.maskIrq
  | irqon (saved : Bool) (hsaved : s.self.ieSaved = some saved) :
      Writes s (.op .irqon) (s.self.restoreIrq saved)
  | initi : Writes s (.op .initi)
      { s.self.disableEdges with
        table := some s.self.argTable, dir := .output, olat := true, role := .initiator, st := .iIdle }
  | initt : Writes s (.op .initt) { s.self with dir := .input }
  | setSt (st : EngineState) : Writes s (.setSt st) { s.self with st := st }
  | accClear : Writes s .accClear { s.self with acc := some 0 }
  | accToRes (a : Byte) (hacc : s.self.acc = some a) : Writes s .accToRes { s.self with res := some a }
  | idxClear : Writes s .idxClear { s.self with idx := some 0 }
  | idxNext (n : Nat) (hidx : s.self.idx = some n) : Writes s .idxNext { s.self with idx := some (idxSucc s.params n) }
  | storeRes (n : Nat) (v : Byte) (e : Descriptor) (b : Buffer) (hidx : s.self.idx = some n)
      (hres : s.self.res = some v) (hdesc : s.self.desc = some e)
      (hwrite : (s.self.buffer e.t2i).write n v = some b) :
      Writes s .storeRes (s.self.setBuffer e.t2i b)
  | setOutcome (o : TxnOutcome) : Writes s (.setOutcome o) { s.self with outc := some o.code }
  | armTarget : Writes s .armTarget s.self.armTarget
  | handlerReturn : Writes s .handlerReturn s.self.leaveHandler

/-- What the step `m`, taken in `s`, can do. -/
def MicroEffect (m : Micro) (s t : State) : Prop :=
  ∃ i, Writes s m i ∧ Effect (s.cur.kind.mayRun m = true) s i t

section
variable {m : Micro} {s t : State} {i : Inst}

theorem MicroEffect.of_nothing (h : Effect (s.cur.kind.mayRun m = true) s s.self t) : MicroEffect m s t :=
  ⟨_, .nothing m, h⟩

theorem MicroEffect.setSelf (h : Writes s m i) : MicroEffect m s (s.setSelf i) := ⟨i, h, Effect.setSelf _ s i⟩

theorem MicroEffect.refuse (m : Micro) (s : State) (code : FaultCode) : MicroEffect m s (s.refuse code) :=
  .of_nothing ((Effect.refl _ s).refuse code)

theorem MicroEffect.load {ms : List Micro}
    (h : s.cur.kind.mayRun m = true → ∀ x ∈ ms, s.cur.kind.mayRun x = true) : MicroEffect m s (s.load ms) :=
  .of_nothing ((Effect.refl _ s).load h)

theorem MicroEffect.goto {ms : List Micro}
    (h : s.cur.kind.mayRun m = true → ∀ x ∈ ms, s.cur.kind.mayRun x = true) : MicroEffect m s (s.goto ms) :=
  .of_nothing ((Effect.refl _ s).goto h)

theorem MicroEffect.withReg {α : Type} {r : Option α} {k : α → State} (h : ∀ v, r = some v → MicroEffect m s (k v)) :
    MicroEffect m s (s.withReg r k) := by
  rcases s.withReg_cases r k with ⟨v, hv, hk⟩ | ⟨-, hk⟩ <;> rw [hk]
  · exact h v hv
  · exact .refuse m s _

theorem MicroEffect.withDesc {k : Descriptor → State} (h : ∀ e, MicroEffect m s (k e)) :
    MicroEffect m s (s.withDesc k) := by
  rcases s.withDesc_cases k with ⟨e, -, hk⟩ | ⟨-, hk⟩ <;> rw [hk]
  · exact h e
  · exact .refuse m s _

theorem MicroEffect.withLen {k : Nat → State} (h : ∀ n, MicroEffect m s (k n)) : MicroEffect m s (s.withLen k) :=
  .withDesc fun _ => h _

theorem MicroEffect.memRead {n : Nat} {k : Byte → State} (h : ∀ v, MicroEffect m s (k v)) :
    MicroEffect m s (s.memRead n k) := by
  rcases s.memRead_cases n k with ⟨-, v, -, -, hk⟩ | ⟨-, -, -, hk⟩ | ⟨-, hk⟩ <;> rw [hk]
  · exact h v
  · exact .refuse m s _
  · exact .refuse m s _

end

/-! ### The expansions stay among the steps of their context -/

/-- Where a context may take the step `m`, it may take the steps that `m` expands to. -/
theorem mayRun_expansion {m : Micro} {ms : List Micro} (hreturn : Micro.handlerReturn ∉ ms)
    (hhandler : m.inHandler = true → ∀ x ∈ ms, x.inHandler = true) (k : ContextKind) (hm : k.mayRun m = true) :
    ∀ x ∈ ms, k.mayRun x = true := by
  intro x hx
  cases k with
  | ordinary =>
    have hne : x ≠ .handlerReturn := fun he => hreturn (he ▸ hx)
    simpa [ContextKind.mayRun] using hne
  | interrupt => exact hhandler hm x hx

theorem mayRun_wrbitCode (b : Bool) (k : ContextKind) (hm : k.mayRun (.op (.wrbit b)) = true) :
    ∀ x ∈ wrbitCode b, k.mayRun x = true :=
  mayRun_expansion (by cases b <;> decide) (by cases b <;> decide) k hm

/-- Each step of WRBYTE writes the latch, turns the port, or is a WRBIT (R322). -/
theorem mem_wrbyteCode {v : Byte} {x : Micro} (h : x ∈ wrbyteCode v) :
    (∃ b, x = driveOp b) ∨ x = .op .setout ∨ ∃ b, x = .op (.wrbit b) := by
  rcases List.mem_cons.mp h with rfl | h
  · exact .inl ⟨_, rfl⟩
  · rcases List.mem_cons.mp h with rfl | h
    · exact .inr (.inl rfl)
    · obtain ⟨b, -, rfl⟩ := List.mem_map.mp h
      exact .inr (.inr ⟨b, rfl⟩)

theorem mayRun_wrbyteCode (v : Byte) (k : ContextKind) (hm : k.mayRun (.op (.wrbyte v)) = true) :
    ∀ x ∈ wrbyteCode v, k.mayRun x = true := by
  refine mayRun_expansion (fun hr => ?_) (fun _ x hx => ?_) k hm
  · rcases mem_wrbyteCode hr with ⟨b, hb⟩ | hb | ⟨b, hb⟩ <;> cases hb
  · rcases mem_wrbyteCode hx with ⟨b, rfl⟩ | rfl | ⟨b, rfl⟩
    · cases b <;> rfl
    · rfl
    · rfl

theorem mayRun_sendByteCode (v : Byte) (k : ContextKind) (hm : k.mayRun .fetchByte = true) :
    ∀ x ∈ sendByteCode v, k.mayRun x = true :=
  mayRun_expansion (by simp [sendByteCode]) (by simp [sendByteCode, Micro.inHandler]) k hm

theorem mayRun_txnExit (o : TxnOutcome) {m : Micro} (hm : m.inHandler = false) (k : ContextKind)
    (h : k.mayRun m = true) : ∀ x ∈ txnExit o, k.mayRun x = true :=
  mayRun_expansion (by simp [txnExit]) (by simp [hm]) k h

/-! ### Every operation and every line of an expansion has such an effect -/

section
variable {s t : State}

/-- INITI's port writes come between the writes of its other fields (R410). -/
theorem microEffect_initi (h : exec .initi s = .next t) : MicroEffect (.op .initi) s t := by
  simp only [exec, execIniti] at h
  split at h <;> cases h
  · exact .refuse _ s _
  · have htable := Effect.setSelf (s.cur.kind.mayRun (.op .initi) = true) s
      { s.self.disableEdges with table := some s.self.argTable }
    have hport := (htable.writeOlat true).writeDir .output
    exact ⟨_, .initi, hport.write ⟨rfl, rfl, rfl, rfl, rfl, rfl⟩ ⟨rfl, rfl, rfl, rfl, rfl, rfl⟩
      (hport.self.setRole .initiator .iIdle)⟩

theorem microEffect_rdbit (h : exec .rdbit s = .next t) : MicroEffect (.op .rdbit) s t := by
  simp only [exec, execRdbit] at h
  cases h
  rcases s.afterSample.withReg_cases s.self.acc _ with ⟨a, hacc, hk⟩ | ⟨-, hk⟩ <;> rw [hk]
  · exact ⟨_, .rdbit a hacc, (Effect.sampleThenSetSelf _ s _).load (mayRun_expansion (by decide) (by decide) _)⟩
  · exact .of_nothing ((Effect.afterSample _ s).refuse _)

theorem microEffect_op {o : Instr} (h : exec o s = .next t) : MicroEffect (.op o) s t := by
  cases o with
  | setout => cases h; exact ⟨_, .setout, (Effect.refl _ s).writeDir _⟩
  | setin => cases h; exact ⟨_, .setin, (Effect.refl _ s).writeDir _⟩
  | drvh => cases h; exact ⟨_, .drvh, (Effect.refl _ s).writeOlat _⟩
  | drvl => cases h; exact ⟨_, .drvl, (Effect.refl _ s).writeOlat _⟩
  | rdlvl => cases h; exact ⟨_, .rdlvl, Effect.sampleThenSetSelf _ s _⟩
  | delay sel =>
    simp only [exec, execDelay] at h
    split at h <;> cases h
    · exact .of_nothing (Effect.sleep _ s _)
    · exact .refuse _ s _
  | waith =>
    simp only [exec, execWaith] at h
    split at h <;> cases h
    · exact .of_nothing (Effect.afterPoll _ s)
    · exact .of_nothing ((Effect.afterPoll _ s).pollAgain id)
  | wrbit b => cases h; exact .load (mayRun_wrbitCode b _)
  | rdbit => exact microEffect_rdbit h
  | wrbyte v => cases h; exact .load (mayRun_wrbyteCode v _)
  | rdbyte => cases h; exact .load (mayRun_expansion (by decide) (by decide) _)
  | ssync => cases h; exact .load (mayRun_expansion (by decide) (by decide) _)
  | rsync => cases h; exact .load (mayRun_expansion (by decide) (by decide) _)
  | ckclr => cases h; exact .setSelf .ckclr
  | ckadd v => cases h; exact .withReg fun x hsum => .setSelf (.ckadd v x hsum)
  | ckaddr => cases h; exact .withReg fun x hsum => .withReg fun v hres => .setSelf (.ckaddr x v hsum hres)
  | ckfold => cases h; exact .withReg fun x hsum => .setSelf (.ckfold x hsum)
  | ckcmp => cases h; exact .withReg fun c hck => .withReg fun v hres => .setSelf (.ckcmp c v hck hres)
  | edgeen => cases h; exact .setSelf .edgeen
  | edgedis => cases h; exact .setSelf .edgedis
  | irqoff => cases h; exact .setSelf .irqoff
  | irqon => cases h; exact .withReg fun saved hsaved => .setSelf (.irqon saved hsaved)
  | initi => exact microEffect_initi h
  | initt =>
    simp only [exec, execInitt] at h
    split at h <;> cases h
    · exact .refuse _ s _
    · exact ⟨_, .initt, ((Effect.refl _ s).writeDir .input).load (mayRun_expansion (by decide) (by decide) _)⟩
  | txn =>
    simp only [exec, execTxn] at h
    split at h <;> cases h
    · exact .refuse _ s _
    · exact .refuse _ s _
    · exact .withDesc fun _ => .load (mayRun_expansion (by decide) (by decide) _)
  | tgtisr =>
    simp only [exec, execTgtisr] at h
    split at h <;> cases h
    · exact .refuse _ s _
    · rename_i hkind
      refine .withDesc fun _ => .load fun _ => ?_
      rw [hkind]
      decide

theorem microEffect_presence (s : State) : MicroEffect .presence s s.presence := by
  refine .withReg fun v _ => ?_
  split
  · exact .goto (mayRun_txnExit _ rfl _)
  · exact .of_nothing (Effect.refl _ s)

theorem microEffect_recvLoop (s : State) : MicroEffect .recvLoop s s.recvLoop := by
  refine .withReg fun n _ => .withLen fun len => ?_
  split
  · exact .load (mayRun_expansion (by simp [recvBody]) (by simp [Micro.inHandler]) _)
  · exact .of_nothing (Effect.refl _ s)

theorem microEffect_sendLoop (s : State) : MicroEffect .sendLoop s s.sendLoop := by
  refine .withReg fun n _ => .withLen fun len => ?_
  split
  · exact .load (mayRun_expansion (by simp [sendBody]) (by simp [sendBody, Micro.inHandler]) _)
  · exact .of_nothing (Effect.refl _ s)

theorem microEffect_storeRes (s : State) : MicroEffect .storeRes s s.storeRes := by
  refine .withReg fun n hidx => .withReg fun v hres => ?_
  rcases s.memWrite_cases n v with ⟨e, b, hdesc, hwrite, ht⟩ | ⟨-, -, -, ht⟩ | ⟨-, ht⟩ <;> rw [ht]
  · exact .setSelf (.storeRes n v e b hidx hres hdesc hwrite)
  · exact .refuse _ s _
  · exact .refuse _ s _

/-- Every zero-time step writes what `Writes` says of it, and beyond that changes only control state. -/
theorem runMicro_microEffect {m : Micro} (h : runMicro m s = .next t) : MicroEffect m s t := by
  cases m with
  | op o => exact microEffect_op h
  | setSt st => cases h; exact .setSelf (.setSt st)
  | accClear => cases h; exact .setSelf .accClear
  | accToRes => cases h; exact .withReg fun a hacc => .setSelf (.accToRes a hacc)
  | idxClear => cases h; exact .setSelf .idxClear
  | idxNext => cases h; exact .withReg fun n hidx => .setSelf (.idxNext n hidx)
  | presence => cases h; exact microEffect_presence s
  | recvLoop => cases h; exact microEffect_recvLoop s
  | storeRes => cases h; exact microEffect_storeRes s
  | decideOutcome => cases h; exact .withReg fun _ _ => .goto (mayRun_txnExit _ rfl _)
  | setOutcome o => cases h; exact .setSelf (.setOutcome o)
  | armTarget => cases h; exact .setSelf .armTarget
  | sendLoop => cases h; exact microEffect_sendLoop s
  | fetchByte => cases h; exact .withReg fun _ _ => .memRead fun v => .load (mayRun_sendByteCode v _)
  | sendCk =>
    cases h
    exact .withReg fun c _ => .load (mayRun_expansion (by simp) (by simp [Micro.inHandler]) _)
  | handlerReturn => cases h; exact .setSelf .handlerReturn

end

/-! ### O57: which step writes which field -/

/-- Settles O57: a field that differs is one that `Writes` names for the step. -/
theorem operationsWriteOnlyTheirs : Obligations.OperationsWriteOnlyTheirs := by
  intro s t m h
  obtain ⟨i, hwrites, heffect⟩ := runMicro_microEffect h
  have hself : SameButControl i t.self := heffect.self
  rw [hself]
  cases hwrites <;>
    simp [Inst.enableEdges, Inst.disableEdges, Inst.maskIrq, Inst.restoreIrq, Inst.armTarget, Inst.leaveHandler]

/-! ### The invariant through one zero-time step -/

section
variable {may : Prop} {s t : State} {i : Inst} {m : Micro}

/-- An effect keeps the trace in the order of time: it records at `NOW`. -/
theorem Effect.traceOk (h : Effect may s i t) (hs : s.TraceOk) : t.TraceOk := by
  obtain ⟨l, ht, hl⟩ := h.trace
  obtain ⟨hnow, -, -⟩ := h.globals
  constructor
  · rw [ht, List.pairwise_append]
    refine ⟨hs.ordered, List.pairwise_of_forall_mem_list fun a ha b hb => ?_, fun a ha b hb => ?_⟩
    · rw [hl a ha, hl b hb]
    · rw [hl b hb]
      exact hs.past a ha
  · rw [ht, hnow]
    intro r hr
    rcases List.mem_append.mp hr with hr | hr
    · exact hs.past r hr
    · exact (hl r hr).le

/-- An effect keeps the invariant where the fields it writes do. -/
theorem Effect.inv (h : Effect may s i t) (hmay : may) (hs : s.Inv) (hi : i.Inv s.params s.now) : t.Inv := by
  obtain ⟨hnow, hparams, hcur⟩ := h.globals
  refine State.inv_iff.mpr ⟨fun d => ?_, h.traceOk hs.traceOk⟩
  rw [hnow, hparams]
  by_cases hd : d = s.cur.side
  · have hself : t.self = t.inst d := by rw [State.self, hcur, hd]
    rw [← hself]
    exact hi.of_sameButControl h.self (h.faults hi.faultsWf) (h.edges hi.edgesOk) (h.contexts hmay hi.codeOk)
  · rw [Side.eq_other_of_ne hd]
    exact (hs.inst _).of_sameButEdges h.partner (h.partnerEdges (hs.inst _).edgesOk)

/-- After the handler's return the interrupted host goes on with the code it had (R561). -/
theorem Context.Ok.resume {k : ContextKind} {x : Context} (hx : x.Ok k) : x.resume.Ok k := by
  unfold Context.resume
  split
  · exact .of_ne_idle nofun hx.code
  · exact hx

theorem Inst.Inv.leaveHandler {p : Params} {now : Nat} (h : i.Inv p now) : i.leaveHandler.Inv p now :=
  have hctx : ((i.setCtx .interrupt { i.interrupt with status := .idle, code := [] }).setCtx .ordinary
      i.ordinary.resume).Inv p now :=
    (h.setCtx (Context.Ok.of_code_nil rfl)).setCtx (h.codeOk .ordinary).resume
  { hctx with isrMasked := fun hisr => absurd hisr (by simp [Inst.leaveHandler]) }

theorem Inst.Inv.setBuffer {p : Params} {now n k : Nat} {v : Byte} {b : Buffer} (h : i.Inv p now)
    (hwrite : (i.buffer n).write k v = some b) : (i.setBuffer n b).Inv p now :=
  have hlength : (i.setBuffer n b).buffers.length = i.buffers.length := List.length_set
  { h with
    buffersLegal := Inst.legal_setBuffer hwrite h.buffersLegal
    tableNames := hlength ▸ h.tableNames
    argNames := hlength ▸ h.argNames }

theorem idxSucc_lt (p : Params) (n : Nat) : idxSucc p n < 2 ^ p.idxW := Nat.mod_lt _ (Nat.two_pow_pos _)

theorem TxnOutcome.code_le_two (o : TxnOutcome) : o.code.toNat ≤ 2 := by cases o <;> decide

/-- What a zero-time step writes keeps the invariant. IRQON is no step of the handler, and the host takes no step while
the handler runs, so interruption stays disabled in it (R386). -/
theorem Writes.inv (h : Writes s m i) (hs : s.Inv) (hm : s.cur.kind.mayRun m = true)
    (hhost : s.cur.kind = .ordinary → s.self.inIsr = false) : i.Inv s.params s.now := by
  have hi : s.self.Inv s.params s.now := hs.self
  cases h with
  | nothing => exact hi
  | setout | setin | drvh | drvl | initt | rdlvl | rdbit | ckclr | ckadd | ckaddr | ckfold | ckcmp | setSt | accClear
  | accToRes => exact { hi with }
  | edgeen => exact { hi with pendEnabled := nofun, fallPending := nofun }
  | edgedis => exact { hi with pendEnabled := nofun, fallPending := nofun }
  | irqoff => exact { hi with isrMasked := fun _ => rfl }
  | irqon saved hsaved =>
    have hkind : s.cur.kind = .ordinary := by
      cases hk : s.cur.kind with
      | ordinary => rfl
      | interrupt => simp [hk, ContextKind.mayRun, Micro.inHandler] at hm
    exact { hi with isrMasked := fun hisr => absurd hisr (by simp [Inst.restoreIrq, hhost hkind]) }
  | initi =>
    exact { hi with
      pendEnabled := nofun
      fallPending := nofun
      tableNames := fun t ht => Option.some.inj ht ▸ hi.argNames
      roleTable := by simp }
  | armTarget =>
    exact { hi with
      pendEnabled := nofun
      fallPending := nofun
      tableNames := fun t ht => Option.some.inj ht ▸ hi.argNames
      roleTable := by simp [Inst.armTarget] }
  | idxClear => exact { hi with idxWidth := fun n hn => Option.some.inj hn ▸ Nat.two_pow_pos _ }
  | idxNext n hidx => exact { hi with idxWidth := fun n hn => Option.some.inj hn ▸ idxSucc_lt _ _ }
  | setOutcome o => exact { hi with outcome := fun c hc => Option.some.inj hc ▸ o.code_le_two }
  | storeRes n v e b hidx hres hdesc hwrite => exact hi.setBuffer hwrite
  | handlerReturn => exact hi.leaveHandler

/-- A zero-time step of a context that may take it keeps the invariant. -/
theorem runMicro_inv (h : runMicro m s = .next t) (hs : s.Inv) (hm : s.cur.kind.mayRun m = true)
    (hhost : s.cur.kind = .ordinary → s.self.inIsr = false) : t.Inv := by
  obtain ⟨i, hwrites, heffect⟩ := runMicro_microEffect h
  exact heffect.inv hm hs (hwrites.inv hs hm hhost)

end

/-! ### Which agent steps, and when -/

section
variable {s t : State} {a : Agent}

theorem mem_agents (a : Agent) : a ∈ agents := by
  rcases a with ⟨⟨d, k⟩⟩ | d | d
  · cases d <;> cases k <;> decide
  · cases d <;> decide
  · cases d <;> decide

theorem State.mem_readyAgents : a ∈ s.readyAgents ↔ s.ready a = true := by simp [State.readyAgents, mem_agents]

/-- The agent picked is ready (R261 rule 1). -/
theorem State.ready_of_pick (h : s.pick = some a) : s.ready a = true := by
  rw [← State.mem_readyAgents]
  unfold State.pick at h
  split at h <;> cases h
  · rename_i heq
    simp [heq]
  · rename_i b c l heq
    rw [heq, List.getD_eq_getElem _ _ (Nat.mod_lt _ (by simp))]
    exact List.getElem_mem _

theorem State.not_ready_of_pick_none (h : s.pick = none) (a : Agent) : s.ready a = false := by
  have hnil : s.readyAgents = [] := by
    unfold State.pick at h
    split at h
    · assumption
    · cases h
    · cases h
  have : a ∉ s.readyAgents := by simp [hnil]
  simpa [State.mem_readyAgents] using this

theorem State.afterPick_cases (s : State) : s.afterPick = s ∨ s.afterPick = s.afterDraw := by
  unfold State.afterPick
  split <;> simp

theorem State.Inv.afterPick (h : s.Inv) : s.afterPick.Inv := by
  rcases s.afterPick_cases with hp | hp <;> rw [hp]
  · exact h
  · exact h.afterDraw

@[simp] theorem State.afterPick_now (s : State) : s.afterPick.now = s.now := by
  rcases s.afterPick_cases with h | h <;> rw [h]
  rfl

@[simp] theorem State.afterPick_inst (s : State) (d : Side) : s.afterPick.inst d = s.inst d := by
  rcases s.afterPick_cases with h | h <;> rw [h]
  exact s.afterDraw_inst d

theorem State.afterPick_ready (s : State) (a : Agent) : s.afterPick.ready a = s.ready a := by
  simp only [State.ready, State.due, State.afterPick_now, State.afterPick_inst]

/-- While the handler runs, the ordinary context takes no step (R130, R385). -/
theorem State.inIsr_of_ready {c : ContextId} (h : s.ready (.context c) = true) (hk : c.kind = .ordinary) :
    (s.inst c.side).inIsr = false := by
  by_contra hne
  rw [Bool.not_eq_false] at hne
  simp [State.ready, State.due, Inst.contextDue, hk, hne] at h

/-- An idle context that is ready is the host's, with a move to make. -/
theorem State.ordinary_of_ready_idle {c : ContextId} (h : s.ready (.context c) = true)
    (hidle : (s.ctx c).status = .idle) : c.kind = .ordinary := by
  unfold State.ctx at hidle
  cases hk : c.kind with
  | ordinary => rfl
  | interrupt =>
    rw [hk] at hidle
    simp [State.ready, State.due, Inst.contextDue, hk, hidle] at h

theorem earliest_eq_some {a b : Option Nat} {n : Nat} (h : earliest a b = some n) : a = some n ∨ b = some n := by
  cases a with
  | none => exact .inr h
  | some x =>
    cases b with
    | none => exact .inl h
    | some y =>
      simp only [earliest, Option.some.injEq] at h
      simp only [Option.some.injEq]
      omega

/-- The next instant is one at which some agent can act. -/
theorem State.due_of_nextInstant {n : Nat} (h : s.nextInstant = some n) : ∃ a, s.due a = some n := by
  unfold State.nextInstant at h
  generalize agents = l at h
  induction l with
  | nil => cases h
  | cons a l ih => exact (earliest_eq_some h).elim (fun ha => ⟨a, ha⟩) ih

/-- Time advances only forward, since no agent is due in the past (R261 rule 3). -/
theorem State.now_lt_nextInstant {n : Nat} (hpick : s.pick = none) (h : s.nextInstant = some n) : s.now < n := by
  obtain ⟨a, ha⟩ := State.due_of_nextInstant h
  simpa [State.ready, ha] using State.not_ready_of_pick_none hpick a

/-- What one step of the link is: a step of the agent picked, or time advances. -/
theorem step_cases (h : step s = .next t) :
    (∃ a, s.pick = some a ∧ runAgent a s.afterPick = .next t) ∨
      ∃ n, s.now < n ∧ t = { s with now := n } := by
  unfold step linkStep at h
  split at h
  · rename_i a hpick
    exact .inl ⟨a, hpick, h⟩
  · rename_i hpick
    split at h <;> cases h
    rename_i n hn
    exact .inr ⟨n, State.now_lt_nextInstant hpick hn, rfl⟩

end

/-! ### What one step of an agent is made of -/

section
variable {s t : State} {c : ContextId} {d : Side}

/-- The state in which context `c` takes the first of its steps, with `code` left after it. -/
def State.running (s : State) (c : ContextId) (code : List Micro) : State :=
  { s.setCtx c { s.ctx c with status := .ready, code := code } with cur := c }

theorem State.inst_withCur (s : State) (c : ContextId) (d : Side) :
    State.inst { s with cur := c } d = s.inst d := by cases d <;> rfl

theorem State.running_inIsr (s : State) (c : ContextId) (code : List Micro) :
    (s.running c code).self.inIsr = (s.inst c.side).inIsr :=
  (congrArg Inst.inIsr (State.inst_withCur _ c c.side)).trans (by simp [State.setCtx])

theorem State.issue_inIsr (s : State) (d : Side) (op : Byte) (script : List HostItem) :
    (s.issue d op script).self.inIsr = (s.inst d).inIsr :=
  (congrArg Inst.inIsr (State.inst_withCur _ _ d)).trans (by simp)

theorem State.finish_cases (s : State) :
    s.finish = s ∨ (s.ctx s.cur).code = [] ∧ s.finish = s.setStatus .idle := by
  unfold State.finish
  split
  · exact .inr ⟨by tauto, rfl⟩
  · exact .inl rfl

/-- A context that runs ends its sequence, or takes the first of its steps. -/
theorem runContext_cases (h : runContext c s = .next t) :
    ((s.ctx c).code = [] ∧ t = { s.setCtx c { s.ctx c with status := .idle } with cur := c }) ∨
      ∃ m ms u, (s.ctx c).code = m :: ms ∧ runMicro m (s.running c ms) = .next u ∧ t = u.finish := by
  unfold runContext at h
  split at h
  · cases h
    exact .inl ⟨by assumption, rfl⟩
  · rename_i m ms hcode
    unfold andThen at h
    split at h <;> cases h
    rename_i u hu
    exact .inr ⟨m, ms, u, hcode, hu, rfl⟩

/-- A host with nothing to issue changes nothing or drops an empty move; else its move is made as the issuer: a store,
an operation, or a word that is refused. -/
theorem issueHost_cases (h : issueHost d s = .next t) :
    (∃ script, t = s.setInst d { s.inst d with script := script }) ∨
      (∃ script k v, t = (s.issue d 0 script).hostStore k v) ∨
      (∃ o script, exec o (s.issue d o.opcode script) = .next t) ∨
      ∃ op script code, t = (s.issue d op script).refuse code := by
  unfold issueHost at h
  split at h
  · cases h
    exact .inl ⟨(s.inst d).script, (State.setInst_inst s d).symm⟩
  · cases h
    exact .inr (.inl ⟨_, _, _, rfl⟩)
  · split at h
    · cases h
      exact .inl ⟨_, rfl⟩
    · exact .inr (.inr (.inl ⟨_, _, h⟩))
    · cases h
      exact .inr (.inr (.inr ⟨_, _, _, rfl⟩))
    · cases h
      exact .inr (.inr (.inr ⟨_, _, _, rfl⟩))

/-- The store of a host replaces one of its buffers, is refused, or is no move of this host. -/
theorem State.hostStore_cases (s : State) (k : Nat) (v : Byte) :
    s.hostStore k v = s ∨ (∃ code, s.hostStore k v = s.refuse code) ∨
      ∃ (e : Descriptor) (b : Buffer), (s.self.buffer e.t2i).write k v = some b ∧
        s.hostStore k v = s.setSelf (s.self.setBuffer e.t2i b) := by
  unfold State.hostStore
  split
  · split
    · exact .inl rfl
    · rcases s.memWrite_cases k v with ⟨e, b, -, hwrite, ht⟩ | ⟨-, -, -, ht⟩ | ⟨-, ht⟩ <;> rw [ht]
      · exact .inr (.inr ⟨e, b, hwrite, rfl⟩)
      · exact .inr (.inl ⟨_, rfl⟩)
      · exact .inr (.inl ⟨_, rfl⟩)
  · exact .inl rfl

/-- The delivery agent enters the handler of a deliverable edge, or sets the instant it planned. -/
theorem State.edgeStep_cases (s : State) (d : Side) :
    ((s.inst d).deliverable = true ∧ s.edgeStep d = s.setInst d (s.inst d).enterHandler) ∨
      ∃ u time, (u = s ∨ u = s.afterDraw) ∧ s.edgeStep d = u.setInst d { s.inst d with deliverAt := time } := by
  unfold State.edgeStep
  split
  · rename_i hdel
    split
    · exact .inr ⟨_, _, .inr rfl, rfl⟩
    · exact .inl ⟨hdel, rfl⟩
  · exact .inr ⟨_, _, .inl rfl, rfl⟩

end

/-! ### O54: the clock -/

section
variable {s t : State} {c : ContextId} {d : Side} {a : Agent}

theorem runMicro_now {m : Micro} (h : runMicro m s = .next t) : t.now = s.now := by
  obtain ⟨_, -, heffect⟩ := runMicro_microEffect h
  exact heffect.globals.now_eq

theorem State.refuse_now (s : State) (code : FaultCode) : (s.refuse code).now = s.now :=
  (s.refuse_spec code).globals.now_eq

theorem State.finish_now (s : State) : s.finish.now = s.now := by
  rcases s.finish_cases with h | ⟨-, h⟩ <;> simp [h]

theorem State.issue_now (s : State) (d : Side) (op : Byte) (script : List HostItem) :
    (s.issue d op script).now = s.now := by simp [State.issue]

theorem State.hostStore_now (s : State) (k : Nat) (v : Byte) : (s.hostStore k v).now = s.now := by
  rcases s.hostStore_cases k v with h | ⟨code, h⟩ | ⟨e, b, -, h⟩ <;> rw [h]
  · exact s.refuse_now code
  · exact State.setSelf_now s _

theorem runContext_now (h : runContext c s = .next t) : t.now = s.now := by
  rcases runContext_cases h with ⟨-, rfl⟩ | ⟨m, ms, u, -, hu, rfl⟩
  · exact State.setCtx_now s c _
  · calc u.finish.now = u.now := u.finish_now
      _ = (s.running c ms).now := runMicro_now hu
      _ = s.now := State.setCtx_now s c _

theorem issueHost_now (h : issueHost d s = .next t) : t.now = s.now := by
  rcases issueHost_cases h with ⟨script, rfl⟩ | ⟨script, k, v, rfl⟩ | ⟨o, script, ho⟩ | ⟨op, script, code, rfl⟩
  · exact State.setInst_now s d _
  · rw [State.hostStore_now, State.issue_now]
  · exact (runMicro_now (m := .op o) ho).trans (s.issue_now d _ _)
  · rw [State.refuse_now, State.issue_now]

theorem State.edgeStep_now (s : State) (d : Side) : (s.edgeStep d).now = s.now := by
  rcases s.edgeStep_cases d with ⟨-, h⟩ | ⟨u, time, rfl | rfl, h⟩ <;> simp [h]

theorem State.resetInst_now (s : State) (d : Side) : (s.resetInst d).now = s.now := by
  unfold State.resetInst
  rw [(State.detectBoth_spec _ _ _).globals.now_eq]
  simp

theorem runAgent_now (h : runAgent a s = .next t) : t.now = s.now := by
  cases a with
  | context c =>
    simp only [runAgent] at h
    split at h
    · exact issueHost_now h
    · exact runContext_now h
  | edge d => cases h; exact s.edgeStep_now d
  | reset d => cases h; exact s.resetInst_now d

end

/-- Settles O54: a step of an agent takes no time, and time advances to a later instant. -/
theorem nowNeverDecreases : Obligations.NowNeverDecreases := by
  refine ⟨rfl, fun s t h => ?_⟩
  rcases step_cases h with ⟨a, -, hrun⟩ | ⟨n, hlt, rfl⟩
  · rw [runAgent_now hrun, State.afterPick_now]
  · exact hlt.le

/-! ### O53: every step keeps the invariant -/

section
variable {s t : State} {c : ContextId} {d : Side} {a : Agent} {p : Params} {now : Nat} {i : Inst}

theorem Inst.reset_inv (olat ie : Bool) (p : Params) (now : Nat) : (Inst.reset olat ie).Inv p now where
  buffersLegal := by simp [Inst.reset]
  tableNames := by simp [Inst.reset]
  argNames := rfl
  faultsWf := rfl
  roleTable := by simp [Inst.reset]
  pendEnabled := by simp [Inst.reset]
  fallPending := by simp [Inst.reset]
  outcome := by simp [Inst.reset]
  idxWidth := by simp [Inst.reset]
  idleDone := fun
    | .ordinary => fun _ => rfl
    | .interrupt => fun _ => rfl
  hostCode := by simp [Inst.reset, Context.idle]
  handlerCode := by simp [Inst.reset, Context.idle]
  isrMasked := by simp [Inst.reset]

theorem State.Inv.refuse (h : s.Inv) (code : FaultCode) : (s.refuse code).Inv :=
  ((Effect.refl True s).refuse code).inv trivial h h.self

theorem State.Inv.setSelf (h : s.Inv) (hi : i.Inv s.params s.now) : (s.setSelf i).Inv := h.setInst hi

theorem State.Inv.finish (h : s.Inv) : s.finish.Inv := by
  rcases s.finish_cases with hf | ⟨hcode, hf⟩ <;> rw [hf]
  · exact h
  · exact h.setCtx (Context.Ok.of_code_nil hcode)

theorem State.Inv.issue (h : s.Inv) (d : Side) (op : Byte) (script : List HostItem) : (s.issue d op script).Inv :=
  have hi : Inst.Inv s.params s.now
      { s.inst d with script := script, ordinary := { (s.inst d).ordinary with opcode := op } } :=
    { h.inst d with
      idleDone := fun
        | .ordinary => (h.inst d).idleDone .ordinary
        | .interrupt => (h.inst d).idleDone .interrupt }
  (h.setInst hi).withCur _

theorem State.Inv.hostStore (h : s.Inv) (k : Nat) (v : Byte) : (s.hostStore k v).Inv := by
  rcases s.hostStore_cases k v with ht | ⟨code, ht⟩ | ⟨e, b, hwrite, ht⟩ <;> rw [ht]
  · exact h
  · exact h.refuse code
  · exact h.setSelf (h.self.setBuffer hwrite)

/-- A context that is not barred by its handler keeps the invariant. -/
theorem runContext_inv (h : runContext c s = .next t) (hs : s.Inv)
    (hhost : c.kind = .ordinary → (s.inst c.side).inIsr = false) : t.Inv := by
  have hctx : (s.ctx c).Ok c.kind := (hs.inst c.side).codeOk c.kind
  rcases runContext_cases h with ⟨hcode, rfl⟩ | ⟨m, ms, u, hcode, hu, rfl⟩
  · exact (hs.setCtx (x := { s.ctx c with status := .idle }) (Context.Ok.of_code_nil hcode)).withCur c
  · have hms : ∀ x ∈ m :: ms, c.kind.mayRun x = true := hcode ▸ hctx.code
    have hrun : (s.running c ms).Inv :=
      (hs.setCtx (x := { s.ctx c with status := .ready, code := ms })
        (.of_ne_idle nofun fun x hx => hms x (List.mem_cons_of_mem m hx))).withCur c
    exact (runMicro_inv hu hrun (hms m List.mem_cons_self) (s.running_inIsr c ms ▸ hhost)).finish

theorem issueHost_inv (h : issueHost d s = .next t) (hs : s.Inv) (hhost : (s.inst d).inIsr = false) : t.Inv := by
  rcases issueHost_cases h with ⟨script, rfl⟩ | ⟨script, k, v, rfl⟩ | ⟨o, script, ho⟩ | ⟨op, script, code, rfl⟩
  · exact hs.setInst { hs.inst d with }
  · exact (hs.issue d 0 script).hostStore k v
  · exact runMicro_inv (m := .op o) ho (hs.issue d o.opcode script) rfl fun _ =>
      (s.issue_inIsr d o.opcode script).trans hhost
  · exact (hs.issue d op script).refuse code

theorem Inst.Inv.enterHandler (h : i.Inv p now) : i.enterHandler.Inv p now :=
  have hctx : (i.setCtx .interrupt { status := .ready, code := [.op .tgtisr], opcode := 0x63 }).Inv p now :=
    h.setCtx (Context.Ok.of_ne_idle nofun (by simp [ContextKind.mayRun, Micro.inHandler]))
  { hctx with
    pendEnabled := nofun
    fallPending := nofun
    isrMasked := fun _ => rfl }

theorem State.Inv.edgeStep (h : s.Inv) (d : Side) : (s.edgeStep d).Inv := by
  rcases s.edgeStep_cases d with ⟨-, ht⟩ | ⟨u, time, rfl | rfl, ht⟩ <;> rw [ht]
  · exact h.setInst (h.inst d).enterHandler
  · exact h.setInst { h.inst d with }
  · exact h.afterDraw.setInst { h.inst d with }

/-- The reset of one controller: the reset values, and what stays its host's (R612). -/
theorem State.Inv.resetInst (h : s.Inv) (d : Side) : (s.resetInst d).Inv := by
  have hi := h.inst d
  refine State.Inv.detectBoth (h.afterDraw.setInst ?_) _ _
  exact { Inst.reset_inv (drawBit s.drawn) (Params.ieReset s.params d) s.params s.now with
    buffersLegal := hi.buffersLegal
    argNames := hi.argNames
    tableNames := nofun
    idleDone := fun
      | .ordinary => fun _ => rfl
      | .interrupt => fun _ => rfl }

theorem runAgent_inv (h : runAgent a s = .next t) (hs : s.Inv) (hready : s.ready a = true) : t.Inv := by
  cases a with
  | context c =>
    simp only [runAgent] at h
    split at h
    · rename_i hidle
      exact issueHost_inv h hs (State.inIsr_of_ready hready (State.ordinary_of_ready_idle hready hidle))
    · exact runContext_inv h hs (State.inIsr_of_ready hready)
  | edge d => cases h; exact hs.edgeStep d
  | reset d => cases h; exact hs.resetInst d

theorem State.Inv.advance (h : s.Inv) {n : Nat} (hn : s.now ≤ n) : State.Inv { s with now := n } where
  instI := h.instI.mono_now hn
  instT := h.instT.mono_now hn
  traceOrdered := h.traceOrdered
  tracePast r hr := (h.tracePast r hr).trans hn

end

/-- Settles O53: a step of a ready agent keeps the invariant, and so does the advance of time. -/
theorem everyStepKeepsInvariant : Obligations.EveryStepKeepsInvariant := by
  intro s t hs h
  rcases step_cases h with ⟨a, hpick, hrun⟩ | ⟨n, hlt, rfl⟩
  · exact runAgent_inv hrun hs.afterPick ((s.afterPick_ready a).trans (State.ready_of_pick hpick))
  · exact hs.advance hlt.le

/-- Settles O52: both controllers are at reset, and the trace is empty. -/
theorem invariantAtReset : Obligations.InvariantAtReset where
  instI := Inst.reset_inv _ _ _ _
  instT := Inst.reset_inv _ _ _ _
  traceOrdered := List.Pairwise.nil
  tracePast := nofun

/-! ### O50 and O30 -/

theorem State.reset_inst (d : Side) : ∃ olat ie, State.reset.inst d = Inst.reset olat ie := by
  cases d <;> exact ⟨_, _, rfl⟩

/-- Settles O50: both ports are inputs, and each field of a controller has its reset value. -/
theorem resetState : Obligations.ResetState := by
  refine ⟨rfl, rfl, fun d => ?_⟩
  obtain ⟨olat, ie, hd⟩ := State.reset_inst d
  simp [hd, Inst.reset, Context.idle]

theorem State.afterSample_self (s : State) : s.afterSample.self = s.self := by
  rcases s.afterSample_cases with h | h <;> simp [h]

theorem State.afterSample_line (s : State) : s.afterSample.line = s.line := by
  rcases s.afterSample_cases with h | h <;> simp [h]

theorem State.setCtx_line (s : State) (c : ContextId) (x : Context) : (s.setCtx c x).line = s.line := by
  obtain ⟨d, k⟩ := c
  cases d <;> cases k <;> rfl

theorem State.refuse_line (s : State) (code : FaultCode) : (s.refuse code).line = s.line :=
  (State.setCtx_line _ _ _).trans (s.line_raiseFault code)

/-- Settles O30: the sample comes first, and the refusal follows in the state after it. -/
theorem unwrittenAccRefused : Obligations.UnwrittenAccRefused := by
  intro s hacc
  have hexec : exec .rdbit s = .next (s.afterSample.refuse .uninitRead) := by simp [exec, execRdbit, hacc]
  have hrefused := s.afterSample.refuse_spec .uninitRead
  refine ⟨_, hexec, hrefused, ?_, ?_⟩
  · simp [hrefused.self, State.afterSample_self, hacc]
  · rw [State.refuse_line, State.afterSample_line]

end Sys2Proof.Machine
end

section
/-! PROOFS of the obligations about the host's memory (20_memory.md). Two frames of a step carry them: a zero-time step
that is not the handler's return touches no context but its own (`runMicro_onlyOwnContext`), and a step of an agent of one
controller leaves the partner but for the edge its detector may latch (`runAgent_partner`). -/

namespace Sys2Proof.Machine

/-! ### No context but the current one changes -/

/-- From `s` to `t` no context changed but the current one, which is current still. -/
structure OnlyOwnContext (s t : State) : Prop where
  cur : t.cur = s.cur
  ctx : ∀ c, c ≠ s.cur → t.ctx c = s.ctx c

section
variable {s t u : State} {m : Micro} {c : ContextId} {d : Side}

theorem SameButEdges.ctx_eq {i j : Inst} (h : SameButEdges i j) (k : ContextKind) : j.ctx k = i.ctx k := by
  rw [h]
  cases k <;> rfl

theorem OnlyOwnContext.refl (s : State) : OnlyOwnContext s s := ⟨rfl, fun _ _ => rfl⟩

theorem OnlyOwnContext.trans (h1 : OnlyOwnContext s t) (h2 : OnlyOwnContext t u) : OnlyOwnContext s u where
  cur := h2.cur.trans h1.cur
  ctx c hc := (h2.ctx c (h1.cur ▸ hc)).trans (h1.ctx c hc)

/-- A write of the controller's fields that keeps its contexts. -/
theorem OnlyOwnContext.setSelf {i : Inst} (hordinary : i.ordinary = s.self.ordinary)
    (hinterrupt : i.interrupt = s.self.interrupt) : OnlyOwnContext s (s.setSelf i) where
  cur := State.setSelf_cur s i
  ctx c _ := by
    unfold State.ctx
    by_cases hside : c.side = s.cur.side
    · rw [hside, State.setSelf_inst]
      cases c.kind
      · exact hordinary
      · exact hinterrupt
    · rw [State.setSelf, State.inst_setInst_ne s i hside]

theorem OnlyOwnContext.setCtx (s : State) (x : Context) : OnlyOwnContext s (s.setCtx s.cur x) :=
  ⟨State.setCtx_cur s _ x, fun _ hc => State.ctx_setCtx_ne s x hc⟩

theorem OnlyOwnContext.afterDraw (s : State) : OnlyOwnContext s s.afterDraw :=
  ⟨rfl, fun c _ => State.afterDraw_ctx s c⟩

theorem OnlyOwnContext.afterSample (s : State) : OnlyOwnContext s s.afterSample := by
  rcases s.afterSample_cases with h | h <;> rw [h]
  · exact .refl s
  · exact .afterDraw s

theorem OnlyOwnContext.sampleThenSetSelf {i : Inst} (hordinary : i.ordinary = s.self.ordinary)
    (hinterrupt : i.interrupt = s.self.interrupt) : OnlyOwnContext s (s.afterSample.setSelf i) := by
  rw [← s.afterSample_self] at hordinary hinterrupt
  exact (OnlyOwnContext.afterSample s).trans (.setSelf hordinary hinterrupt)

theorem OnlyOwnContext.afterPoll (s : State) : OnlyOwnContext s s.afterPoll := by
  rcases s.afterPoll_cases with h | h <;> rw [h]
  · exact .refl s
  · exact .afterDraw s

/-- A port write changes the contexts of neither controller. -/
theorem OnlyOwnContext.writePort (s : State) (dir : Dir) (olat : Bool) : OnlyOwnContext s (s.writePort dir olat) := by
  have h := s.writePort_spec dir olat
  have hcur := h.globals.cur_eq
  refine ⟨hcur, fun c _ => ?_⟩
  unfold State.ctx
  by_cases hside : c.side = s.cur.side
  · have hself : (s.writePort dir olat).inst s.cur.side = (s.writePort dir olat).self := by rw [State.self, hcur]
    rw [hside, hself, h.self.ctx_eq]
    cases c.kind <;> rfl
  · rw [Side.eq_other_of_ne hside]
    exact h.partner.ctx_eq c.kind

theorem OnlyOwnContext.refuse (s : State) (code : FaultCode) : OnlyOwnContext s (s.refuse code) :=
  have hraise : OnlyOwnContext s (s.raiseFault code) :=
    ⟨State.raiseFault_cur s code, fun c _ => State.ctx_raiseFault s code c⟩
  hraise.trans (.setCtx _ _)

theorem OnlyOwnContext.load (s : State) (ms : List Micro) : OnlyOwnContext s (s.load ms) := .setCtx s _

theorem OnlyOwnContext.goto (s : State) (ms : List Micro) : OnlyOwnContext s (s.goto ms) := .setCtx s _

theorem OnlyOwnContext.sleep (s : State) (n : Nat) : OnlyOwnContext s (s.sleep n) :=
  (OnlyOwnContext.afterDraw s).trans (.setCtx _ _)

theorem OnlyOwnContext.pollAgain (s : State) : OnlyOwnContext s s.pollAgain :=
  (OnlyOwnContext.afterDraw s).trans (.setCtx s.afterDraw _)

theorem OnlyOwnContext.withReg {α : Type} {r : Option α} {k : α → State} (h : ∀ v, OnlyOwnContext s (k v)) :
    OnlyOwnContext s (s.withReg r k) := by
  rcases s.withReg_cases r k with ⟨v, -, hk⟩ | ⟨-, hk⟩ <;> rw [hk]
  · exact h v
  · exact .refuse s _

theorem OnlyOwnContext.withDesc {k : Descriptor → State} (h : ∀ e, OnlyOwnContext s (k e)) :
    OnlyOwnContext s (s.withDesc k) := by
  rcases s.withDesc_cases k with ⟨e, -, hk⟩ | ⟨-, hk⟩ <;> rw [hk]
  · exact h e
  · exact .refuse s _

theorem OnlyOwnContext.withLen {k : Nat → State} (h : ∀ n, OnlyOwnContext s (k n)) : OnlyOwnContext s (s.withLen k) :=
  .withDesc fun _ => h _

theorem OnlyOwnContext.memRead {n : Nat} {k : Byte → State} (h : ∀ v, OnlyOwnContext s (k v)) :
    OnlyOwnContext s (s.memRead n k) := by
  rcases s.memRead_cases n k with ⟨-, v, -, -, hk⟩ | ⟨-, -, -, hk⟩ | ⟨-, hk⟩ <;> rw [hk]
  · exact h v
  · exact .refuse s _
  · exact .refuse s _

theorem OnlyOwnContext.memWrite (s : State) (n : Nat) (v : Byte) : OnlyOwnContext s (s.memWrite n v) := by
  rcases s.memWrite_cases n v with ⟨e, b, -, -, ht⟩ | ⟨-, -, -, ht⟩ | ⟨-, ht⟩ <;> rw [ht]
  · exact .setSelf rfl rfl
  · exact .refuse s _
  · exact .refuse s _

theorem OnlyOwnContext.initi (h : exec .initi s = .next t) : OnlyOwnContext s t := by
  simp only [exec, execIniti] at h
  split at h <;> cases h
  · exact .refuse s _
  · have htable : OnlyOwnContext s (s.setSelf { s.self.disableEdges with table := some s.self.argTable }) :=
      .setSelf rfl rfl
    exact ((htable.trans (.writePort _ _ _)).trans (.writePort _ _ _)).trans (.setSelf rfl rfl)

theorem OnlyOwnContext.op {o : Instr} (h : exec o s = .next t) : OnlyOwnContext s t := by
  cases o with
  | setout | setin | drvh | drvl => cases h; exact .writePort s _ _
  | rdlvl => cases h; exact .sampleThenSetSelf rfl rfl
  | delay sel =>
    simp only [exec, execDelay] at h
    split at h <;> cases h
    · exact .sleep s _
    · exact .refuse s _
  | waith =>
    simp only [exec, execWaith] at h
    split at h <;> cases h
    · exact .afterPoll s
    · exact (OnlyOwnContext.afterPoll s).trans (.pollAgain _)
  | rdbit =>
    cases h
    rcases s.afterSample.withReg_cases s.self.acc _ with ⟨a, -, hk⟩ | ⟨-, hk⟩ <;> rw [hk]
    · have hsample : OnlyOwnContext s (s.afterSample.setSelf { s.self with acc := some (shiftIn a s.sample) }) :=
        .sampleThenSetSelf rfl rfl
      exact hsample.trans (.load _ _)
    · exact (OnlyOwnContext.afterSample s).trans (.refuse _ _)
  | wrbit | wrbyte | rdbyte | ssync | rsync => cases h; exact .load s _
  | ckclr | edgeen | edgedis | irqoff => cases h; exact .setSelf rfl rfl
  | ckadd | ckfold | irqon => cases h; exact .withReg fun _ => .setSelf rfl rfl
  | ckaddr | ckcmp => cases h; exact .withReg fun _ => .withReg fun _ => .setSelf rfl rfl
  | initi => exact .initi h
  | initt =>
    simp only [exec, execInitt] at h
    split at h <;> cases h
    · exact .refuse s _
    · exact (OnlyOwnContext.writePort s _ _).trans (.load _ _)
  | txn =>
    simp only [exec, execTxn] at h
    split at h <;> cases h
    · exact .refuse s _
    · exact .refuse s _
    · exact .withDesc fun _ => .load s _
  | tgtisr =>
    simp only [exec, execTgtisr] at h
    split at h <;> cases h
    · exact .refuse s _
    · exact .withDesc fun _ => .load s _

/-- Only the handler's return reaches into the other context of its controller (R561). -/
theorem runMicro_onlyOwnContext (h : runMicro m s = .next t) (hm : m ≠ .handlerReturn) : OnlyOwnContext s t := by
  cases m with
  | op o => exact .op h
  | setSt | accClear | idxClear | setOutcome | armTarget => cases h; exact .setSelf rfl rfl
  | accToRes | idxNext => cases h; exact .withReg fun _ => .setSelf rfl rfl
  | presence =>
    cases h
    refine .withReg fun v => ?_
    split
    · exact .goto s _
    · exact .refl s
  | recvLoop | sendLoop =>
    cases h
    refine .withReg fun _ => .withLen fun _ => ?_
    split
    · exact .load s _
    · exact .refl s
  | storeRes => cases h; exact .withReg fun _ => .withReg fun _ => .memWrite s _ _
  | decideOutcome => cases h; exact .withReg fun _ => .goto s _
  | fetchByte => cases h; exact .withReg fun _ => .memRead fun _ => .load s _
  | sendCk => cases h; exact .withReg fun _ => .load s _
  | handlerReturn => exact absurd rfl hm

end

/-! ### A step of one controller's agent and its partner -/

section
variable {s t : State} {m : Micro} {c : ContextId} {d : Side} {a : Agent}

/-- The controller whose agent it is. -/
def Agent.side : Agent → Side
  | .context c => c.side
  | .edge d => d
  | .reset d => d

theorem runMicro_partner (h : runMicro m s = .next t) :
    SameButEdges (s.inst s.cur.side.other) (t.inst s.cur.side.other) := by
  obtain ⟨_, -, heffect⟩ := runMicro_microEffect h
  exact heffect.partner

theorem runMicro_cur (h : runMicro m s = .next t) : t.cur = s.cur := by
  obtain ⟨_, -, heffect⟩ := runMicro_microEffect h
  exact heffect.globals.cur_eq

theorem State.finish_partner (s : State) : s.finish.inst s.cur.side.other = s.inst s.cur.side.other := by
  rcases s.finish_cases with h | ⟨-, h⟩ <;> rw [h]
  exact State.setStatus_other s _

theorem State.setCtx_withCur_inst (s : State) (c e : ContextId) (x : Context) :
    State.inst { s.setCtx c x with cur := e } c.side = (s.inst c.side).setCtx c.kind x :=
  (State.inst_withCur _ e c.side).trans (State.inst_setInst s c.side _)

theorem State.setCtx_withCur_partner (s : State) (c e : ContextId) (x : Context) :
    State.inst { s.setCtx c x with cur := e } c.side.other = s.inst c.side.other :=
  (State.inst_withCur _ e _).trans (State.inst_other_setInst s c.side _)

theorem State.issue_partner (s : State) (d : Side) (op : Byte) (script : List HostItem) :
    (s.issue d op script).inst d.other = s.inst d.other :=
  (State.inst_withCur _ _ _).trans (State.inst_other_setInst s d _)

theorem State.hostStore_partner (s : State) (k : Nat) (v : Byte) :
    (s.hostStore k v).inst s.cur.side.other = s.inst s.cur.side.other := by
  rcases s.hostStore_cases k v with h | ⟨code, h⟩ | ⟨e, b, -, h⟩ <;> rw [h]
  · exact (s.refuse_spec code).partner
  · exact State.setSelf_other s _

theorem runContext_partner (h : runContext c s = .next t) :
    SameButEdges (s.inst c.side.other) (t.inst c.side.other) := by
  rcases runContext_cases h with ⟨-, rfl⟩ | ⟨m, ms, u, -, hu, rfl⟩
  · exact (s.setCtx_withCur_partner c c _).symm ▸ .refl _
  · have hcur : u.cur = c := runMicro_cur hu
    have hfinish : u.finish.inst c.side.other = u.inst c.side.other := hcur ▸ u.finish_partner
    rw [hfinish, ← s.setCtx_withCur_partner c c { s.ctx c with status := .ready, code := ms }]
    exact runMicro_partner hu

theorem issueHost_partner (h : issueHost d s = .next t) : SameButEdges (s.inst d.other) (t.inst d.other) := by
  rcases issueHost_cases h with ⟨script, rfl⟩ | ⟨script, k, v, rfl⟩ | ⟨o, script, ho⟩ | ⟨op, script, code, rfl⟩
  · rw [State.inst_other_setInst]
    exact .refl _
  · rw [← s.issue_partner d 0 script]
    exact (State.hostStore_partner _ k v).symm ▸ .refl _
  · rw [← s.issue_partner d o.opcode script]
    exact runMicro_partner (m := .op o) ho
  · rw [← s.issue_partner d op script]
    exact (State.refuse_spec _ code).partner.symm ▸ .refl _

theorem State.edgeStep_partner (s : State) (d : Side) : (s.edgeStep d).inst d.other = s.inst d.other := by
  rcases s.edgeStep_cases d with ⟨-, h⟩ | ⟨u, time, rfl | rfl, h⟩ <;> simp [h]

theorem State.resetInst_partner (s : State) (d : Side) :
    SameButEdges (s.inst d.other) ((s.resetInst d).inst d.other) := by
  refine SameButEdges.trans ?_ ((State.detectBoth_spec _ _ _).inst d.other)
  rw [State.inst_other_setInst, State.afterDraw_inst]
  exact .refl _

/-- A step of an agent leaves the partner as it was, but for the edge its detector may latch (R510, R129). -/
theorem runAgent_partner (h : runAgent a s = .next t) :
    SameButEdges (s.inst a.side.other) (t.inst a.side.other) := by
  cases a with
  | context c =>
    simp only [runAgent] at h
    split at h
    · exact issueHost_partner h
    · exact runContext_partner h
  | edge d => cases h; exact (s.edgeStep_partner d).symm ▸ .refl _
  | reset d => cases h; exact s.resetInst_partner d

end

/-! ### O39: the host while the handler runs -/

/-- From `i` to `j` the host took no step and its memory is the same; at most the return from the handler let its
sequence go on (R130, R387). -/
structure HostWaits (i j : Inst) : Prop where
  script : j.script = i.script
  table : j.table = i.table
  buffers : j.buffers = i.buffers
  ordinary : j.ordinary = i.ordinary ∨ j.inIsr = false ∧ j.ordinary = i.ordinary.resume

section
variable {s t : State} {m : Micro} {c : ContextId} {d : Side} {a : Agent} {i j : Inst}

theorem HostWaits.refl (i : Inst) : HostWaits i i := ⟨rfl, rfl, rfl, .inl rfl⟩

theorem SameButEdges.hostWaits (h : SameButEdges i j) : HostWaits i j := by
  rw [h]
  exact ⟨rfl, rfl, rfl, .inl rfl⟩

/-- What becomes of the interrupt context is nothing to the host. -/
theorem HostWaits.setInterrupt (h : HostWaits i j) (x : Context) : HostWaits i (j.setCtx .interrupt x) :=
  ⟨h.script, h.table, h.buffers, h.ordinary⟩

/-- No step of the handler writes the script, the table or a buffer (R462). -/
theorem Writes.hostData_eq (h : Writes s m i) (hm : m.inHandler = true) :
    i.script = s.self.script ∧ i.table = s.self.table ∧ i.buffers = s.self.buffers := by
  cases h with
  | initi | armTarget | storeRes => cases hm
  | _ => exact ⟨rfl, rfl, rfl⟩

/-- A step of the handler's sequence leaves its host waiting; the last lets it go on. -/
theorem runMicro_hostWaits (h : runMicro m s = .next t) (hkind : s.cur.kind = .interrupt) (hm : m.inHandler = true) :
    HostWaits s.self t.self := by
  obtain ⟨i, hwrites, heffect⟩ := runMicro_microEffect h
  obtain ⟨hscript, htable, hbuffers⟩ := hwrites.hostData_eq hm
  have hself : SameButControl i t.self := heffect.self
  refine ⟨by rw [hself]; exact hscript, by rw [hself]; exact htable, by rw [hself]; exact hbuffers, ?_⟩
  by_cases hreturn : m = .handlerReturn
  · subst hreturn
    cases h
    rw [State.self_setSelf]
    exact .inr ⟨rfl, rfl⟩
  · have hown := runMicro_onlyOwnContext h hreturn
    have hctx := hown.ctx { side := s.cur.side, kind := .ordinary } fun he => by
      rw [← he] at hkind
      cases hkind
    refine .inl ?_
    rw [State.self, hown.cur]
    exact hctx

theorem State.finish_hostWaits (h : HostWaits i s.self) (hkind : s.cur.kind = .interrupt) :
    HostWaits i (s.finish.inst s.cur.side) := by
  rcases s.finish_cases with hf | ⟨-, hf⟩ <;> rw [hf]
  · exact h
  · rw [State.setStatus, State.setCtx, State.inst_setInst, hkind]
    exact h.setInterrupt _

theorem State.running_self (s : State) (c : ContextId) (code : List Micro) :
    (s.running c code).self = (s.inst c.side).setCtx c.kind { s.ctx c with status := .ready, code := code } :=
  s.setCtx_withCur_inst c c _

/-- The interrupt context takes its steps while its host waits. -/
theorem runContext_hostWaits (h : runContext { side := d, kind := .interrupt } s = .next t) (hs : s.Inv) :
    HostWaits (s.inst d) (t.inst d) := by
  rcases runContext_cases h with ⟨-, rfl⟩ | ⟨m, ms, u, hcode, hu, rfl⟩
  · exact (s.setCtx_withCur_inst { side := d, kind := .interrupt } _ _).symm ▸ (HostWaits.refl _).setInterrupt _
  · have hm : m.inHandler = true := (hs.inst d).handlerCode m (hcode ▸ List.mem_cons_self)
    have hcur : u.cur = { side := d, kind := .interrupt } := runMicro_cur hu
    have hwaits : HostWaits (s.inst d) u.self := by
      have hstep := runMicro_hostWaits hu rfl hm
      rw [State.running_self] at hstep
      exact ⟨hstep.script, hstep.table, hstep.buffers, hstep.ordinary⟩
    have hfinish := State.finish_hostWaits hwaits (by rw [hcur])
    rwa [hcur] at hfinish

theorem State.edgeStep_hostWaits (hisr : (s.inst d).inIsr = true) : HostWaits (s.inst d) ((s.edgeStep d).inst d) := by
  rcases s.edgeStep_cases d with ⟨hdeliverable, -⟩ | ⟨u, time, -, h⟩
  · simp [Inst.deliverable, hisr] at hdeliverable
  · rw [h, State.inst_setInst]
    exact ⟨rfl, rfl, rfl, .inl rfl⟩

theorem State.not_ready_of_inIsr (hisr : (s.inst d).inIsr = true) :
    s.ready (.context { side := d, kind := .ordinary }) = false := by
  refine Bool.eq_false_iff.mpr fun hready => ?_
  have hnot : (s.inst d).inIsr = false := State.inIsr_of_ready hready rfl
  simp [hisr] at hnot

/-- A step of any ready agent, but for the reset of the controller whose handler runs, leaves the host waiting. -/
theorem runAgent_hostWaits (h : runAgent a s = .next t) (hs : s.Inv) (hready : s.ready a = true)
    (hisr : (s.inst d).inIsr = true) (hreset : a ≠ .reset d) : HostWaits (s.inst d) (t.inst d) := by
  by_cases hside : a.side = d
  · subst hside
    cases a with
    | context c =>
      obtain ⟨e, kind⟩ := c
      cases kind with
      | ordinary => exact absurd hready (by simp [State.not_ready_of_inIsr (d := e) hisr])
      | interrupt =>
        simp only [runAgent] at h
        split at h
        · cases State.ordinary_of_ready_idle hready ‹_›
        · exact runContext_hostWaits h hs
    | edge e => cases h; exact State.edgeStep_hostWaits hisr
    | reset e => exact absurd rfl hreset
  · rw [Side.eq_other_of_ne (Ne.symm hside)]
    exact (runAgent_partner h).hostWaits

end

/-- Settles O39: the host is not ready while its handler runs, and every other agent's step leaves it waiting. -/
theorem handlerSeesOneCopy : Obligations.HandlerSeesOneCopy := by
  intro s d hs hisr
  refine ⟨State.not_ready_of_inIsr hisr, fun t hpick h => ?_⟩
  have hwaits : HostWaits (s.inst d) (t.inst d) := by
    rcases step_cases h with ⟨a, ha, hrun⟩ | ⟨n, -, rfl⟩
    · have hready : s.afterPick.ready a = true := (s.afterPick_ready a).trans (State.ready_of_pick ha)
      rw [← s.afterPick_inst d] at hisr ⊢
      exact runAgent_hostWaits hrun hs.afterPick hready hisr fun he => hpick (he ▸ ha)
    · cases d <;> exact .refl _
  exact ⟨hwaits.script, hwaits.table, hwaits.buffers, hwaits.ordinary⟩

end Sys2Proof.Machine
end

section
/-! PROOFS of the obligations about the operation words (30_encoding.md), the checksum of a byte sequence
(44_checksum.md), and the expansions and refusals of single operations (R185, R187). `decode_eq_op_iff` inverts the
decoder once; the round trip is its two directions. -/

namespace Sys2Proof

/-! ### The decoder, inverted -/

/-- A byte sequence decodes to an operation by exactly one of the three formats of R180. -/
theorem decode_eq_op_iff {bytes rest : List Byte} {i : Instr} :
    decode bytes = .op i rest ↔
      (∃ op, bytes = op :: rest ∧ formatOf op = some .Z ∧ decodeZ op = some i) ∨
      (∃ op x, bytes = op :: x :: rest ∧ formatOf op = some .P ∧ decodeSel x = some i) ∨
      (∃ op x, bytes = op :: x :: rest ∧ formatOf op = some .B ∧ decodeImm op x = some i) := by
  constructor
  · intro h
    unfold decode at h
    split at h
    · cases h
    next op tail =>
      split at h
      · cases h
      next hformat =>
        split at h <;> cases h
        exact .inl ⟨op, rfl, hformat, ‹_›⟩
      next hformat =>
        split at h
        · cases h
        · split at h <;> cases h
          exact .inr (.inl ⟨op, _, rfl, hformat, ‹_›⟩)
      next hformat =>
        split at h
        · cases h
        · split at h <;> cases h
          exact .inr (.inr ⟨op, _, rfl, hformat, ‹_›⟩)
  · rintro (⟨op, rfl, hformat, hop⟩ | ⟨op, x, rfl, hformat, hop⟩ | ⟨op, x, rfl, hformat, hop⟩) <;>
      simp [decode, hformat, hop]

/-- Only DELAY has the P-format (R183). -/
theorem eq_of_formatOf_P {op : Byte} (h : formatOf op = some .P) : op = 0x10 := by
  unfold formatOf at h
  split at h <;> cases h
  exact BitVec.eq_of_toNat_eq ‹_›

/-- A Z-format word is the opcode byte alone. -/
theorem wf_encode_of_decodeZ {op : Byte} {i : Instr} (h : decodeZ op = some i) : i.wf = true ∧ encode i = [op] := by
  unfold decodeZ at h
  split at h <;> cases h <;> exact ⟨rfl, congrArg (· :: []) (BitVec.eq_of_toNat_eq (Eq.symm ‹_›))⟩

/-- The selector is the whole of a P-format operand byte, bits 7:4 being 0 (R181). -/
theorem wf_encode_of_decodeSel {x : Byte} {i : Instr} (h : decodeSel x = some i) :
    i.wf = true ∧ encode i = [0x10, x] := by
  unfold decodeSel at h
  split at h <;> cases h
  next hx =>
    have hlow : (x.setWidth 4).toNat = x.toNat := by rw [BitVec.toNat_setWidth]; omega
    have hback : (x.setWidth 4).setWidth 8 = x := BitVec.eq_of_toNat_eq (by rw [BitVec.toNat_setWidth, hlow]; omega)
    exact ⟨by simpa [Instr.wf, -BitVec.toNat_setWidth, hlow] using hx,
      by simp [encode, Instr.opcode, Instr.operand, hback]⟩

theorem decodeSel_setWidth {sel : BitVec 4} (h : sel.toNat < 10) : decodeSel (sel.setWidth 8) = some (.delay sel) := by
  have hwide : (sel.setWidth 8).toNat = sel.toNat := by rw [BitVec.toNat_setWidth]; omega
  have hback : (sel.setWidth 8).setWidth 4 = sel := BitVec.eq_of_toNat_eq (by rw [BitVec.toNat_setWidth, hwide]; omega)
  simp [decodeSel, hwide, hback, h]

/-- The bit of WRBIT is the whole of its operand byte, bits 7:1 being 0 (R181). -/
theorem ite_getLsbD_zero {x : Byte} (h : x.toNat < 2) : (if x.getLsbD 0 then 0x01 else 0x00) = x := by
  obtain hx | hx : x.toNat = 0 ∨ x.toNat = 1 := by omega
  · rw [show x = 0#8 from BitVec.eq_of_toNat_eq hx]; rfl
  · rw [show x = 1#8 from BitVec.eq_of_toNat_eq hx]; rfl

/-- A B-format word is the opcode byte and its operand byte. -/
theorem wf_encode_of_decodeImm {op x : Byte} {i : Instr} (h : decodeImm op x = some i) :
    i.wf = true ∧ encode i = [op, x] := by
  unfold decodeImm at h
  split at h
  next hop =>
    rw [show op = 0x20 from BitVec.eq_of_toNat_eq hop]
    split at h <;> cases h
    exact ⟨rfl, congrArg (fun y : Byte => [0x20, y]) (ite_getLsbD_zero ‹_›)⟩
  next hop =>
    cases h
    rw [show op = 0x22 from BitVec.eq_of_toNat_eq hop]
    exact ⟨rfl, rfl⟩
  next hop =>
    cases h
    rw [show op = 0x41 from BitVec.eq_of_toNat_eq hop]
    exact ⟨rfl, rfl⟩
  next => cases h

/-! ### O1 to O3: the round trip -/

/-- Settles O1: each operation's opcode has its format, and the decoder of that format reads the operand back. -/
theorem decodeOfEncode : Obligations.DecodeOfEncode := by
  intro i rest hwf
  refine decode_eq_op_iff.mpr ?_
  cases i with
  | delay sel => exact .inr (.inl ⟨_, _, rfl, rfl, decodeSel_setWidth (of_decide_eq_true hwf)⟩)
  | wrbit b => exact .inr (.inr ⟨_, _, rfl, rfl, by cases b <;> rfl⟩)
  | wrbyte | ckadd => exact .inr (.inr ⟨_, _, rfl, rfl, rfl⟩)
  | _ => exact .inl ⟨_, rfl, rfl, rfl⟩

/-- Settles O2: each of the three formats gives back the bytes it was read from. -/
theorem decodeOnlyItsWord : Obligations.DecodeOnlyItsWord := by
  intro bytes rest i h
  obtain ⟨op, rfl, -, hop⟩ | ⟨op, x, rfl, hformat, hop⟩ | ⟨op, x, rfl, -, hop⟩ := decode_eq_op_iff.mp h
  · obtain ⟨hwf, hword⟩ := wf_encode_of_decodeZ hop
    exact ⟨hwf, by rw [hword]; rfl⟩
  · obtain ⟨hwf, hword⟩ := wf_encode_of_decodeSel hop
    exact ⟨hwf, by rw [hword, eq_of_formatOf_P hformat]; rfl⟩
  · obtain ⟨hwf, hword⟩ := wf_encode_of_decodeImm hop
    exact ⟨hwf, by rw [hword]; rfl⟩

/-- Settles O3: each word of the vectors is the word of its operation, so O1 decodes it. -/
theorem opcodeMapWords : Obligations.OpcodeMapWords :=
  ⟨decodeOfEncode .setout [] rfl, decodeOfEncode .setin [] rfl, decodeOfEncode .drvh [] rfl,
    decodeOfEncode .drvl [] rfl, decodeOfEncode .rdlvl [] rfl, decodeOfEncode (.delay 3) [] rfl,
    decodeOfEncode .waith [] rfl, decodeOfEncode (.wrbit true) [] rfl, decodeOfEncode (.wrbyte 0x5A) [] rfl,
    decodeOfEncode .rsync [] rfl, decodeOfEncode (.ckadd 0xFF) [] rfl, decodeOfEncode .irqoff [] rfl,
    decodeOfEncode .txn [] rfl⟩

/-! ### Refused words (R184) -/

/-- The opcodes outside the map of R183. -/
theorem formatOf_eq_none {op : Byte}
    (h : op.toNat = 0x00 ∨ (0x06 ≤ op.toNat ∧ op.toNat ≤ 0x0F) ∨ (0x12 ≤ op.toNat ∧ op.toNat ≤ 0x1F) ∨
      (0x24 ≤ op.toNat ∧ op.toNat ≤ 0x2F) ∨ (0x32 ≤ op.toNat ∧ op.toNat ≤ 0x3F) ∨
      (0x45 ≤ op.toNat ∧ op.toNat ≤ 0x4F) ∨ (0x54 ≤ op.toNat ∧ op.toNat ≤ 0x5F) ∨ 0x64 ≤ op.toNat) :
    formatOf op = none := by
  unfold formatOf
  split
  rotate_right
  · rfl
  all_goals omega

section
variable {bytes rest : List Byte} {op : Byte} {i : Instr}

theorem decodeSequence_of_illegalOp (h : decode bytes = .illegalOp op rest) :
    decodeSequence bytes = .illegalOp op rest := by simp [decodeSequence, h]

theorem decodeSequence_of_badOperand (h : decode bytes = .badOperand op rest) :
    decodeSequence bytes = .badOperand op rest := by simp [decodeSequence, h]

theorem decodeSequence_of_not_issuable (h : decode bytes = .op i rest) (hi : i.issuable = false) :
    decodeSequence bytes = .illegalOp 0x63 rest := by simp [decodeSequence, h, hi]

end

section
variable {op x : Byte} (rest : List Byte)

theorem decode_of_formatOf_none (h : formatOf op = none) : decode (op :: rest) = .illegalOp op rest := by
  simp [decode, h]

theorem decode_of_decodeSel_none (hformat : formatOf op = some .P) (h : decodeSel x = none) :
    decode (op :: x :: rest) = .badOperand op rest := by simp [decode, hformat, h]

theorem decode_of_decodeImm_none (hformat : formatOf op = some .B) (h : decodeImm op x = none) :
    decode (op :: x :: rest) = .badOperand op rest := by simp [decode, hformat, h]

end

end Sys2Proof

namespace Sys2Proof.Machine

section
variable {s : State} {d : Side} {time : Nat} {bytes rest : List Byte} {items : List HostItem} {op : Byte}

theorem issueHost_illegalOp (hscript : (s.inst d).script = { time := time, move := .words bytes } :: items)
    (h : decodeSequence bytes = .illegalOp op rest) :
    issueHost d s = .next ((s.issue d op (scriptAfter time rest items)).refuse .illegalOp) := by
  simp [issueHost, hscript, h]

theorem issueHost_badOperand (hscript : (s.inst d).script = { time := time, move := .words bytes } :: items)
    (h : decodeSequence bytes = .badOperand op rest) :
    issueHost d s = .next ((s.issue d op (scriptAfter time rest items)).refuse .badOperand) := by
  simp [issueHost, hscript, h]

end

/-- Settles O4: none of R184's words is an operation of a sequence, and the host that issues one is refused. -/
theorem illegalWords : Obligations.IllegalWords := by
  refine ⟨fun op rest h => ?_, fun x rest h => ?_, fun x rest h => ?_,
    fun s d time bytes rest items op hscript => ?_⟩
  · by_cases htgtisr : op.toNat = 0x63
    · rw [show op = 0x63 from BitVec.eq_of_toNat_eq htgtisr]
      exact decodeSequence_of_not_issuable (decodeOfEncode .tgtisr rest rfl) rfl
    · exact decodeSequence_of_illegalOp (decode_of_formatOf_none rest (formatOf_eq_none (by omega)))
  · exact decodeSequence_of_badOperand (decode_of_decodeSel_none rest rfl (if_neg (by omega)))
  · exact decodeSequence_of_badOperand (decode_of_decodeImm_none rest rfl (if_neg (by omega)))
  · exact ⟨fun h => ⟨_, issueHost_illegalOp hscript h, State.refuse_spec _ _⟩,
      fun h => ⟨_, issueHost_badOperand hscript h, State.refuse_spec _ _⟩⟩

/-! ### O31: the checksum of a byte sequence -/

theorem execAll_append_of_next {is js : List Instr} {s t : State} (h : execAll is s = .next t) :
    execAll (is ++ js) s = execAll js t := by
  induction is generalizing s with
  | nil => cases h; rfl
  | cons i is ih =>
    simp only [execAll, List.cons_append] at h ⊢
    split at h
    · exact ih h
    · cases h
    · cases h

/-- CKADD of each byte adds them all to a written SUM, and changes nothing else. -/
theorem execAll_ckadd (bytes : List Byte) {s : State} {x : Byte} (h : s.self.sum = some x) :
    execAll (bytes.map .ckadd) s = .next (s.setSelf { s.self with sum := some (bytes.foldl sumAdd x) }) := by
  induction bytes generalizing s x with
  | nil =>
    rw [List.foldl_nil, ← h]
    exact congrArg Host.Outcome.next s.setSelf_self.symm
  | cons v bytes ih =>
    have hadd : exec (.ckadd v) s = .next (s.setSelf { s.self with sum := some (sumAdd x v) }) := by
      simp [exec, execCkadd, h]
    simp [execAll, hadd, ih (x := sumAdd x v)]

/-- The fold over the bytes is their sum, modulo 256 (R177). -/
theorem toNat_foldl_sumAdd (bytes : List Byte) (x : Byte) :
    (bytes.foldl sumAdd x).toNat = (x.toNat + (bytes.map BitVec.toNat).sum) % 256 := by
  induction bytes generalizing x with
  | nil => simp [Nat.mod_eq_of_lt x.isLt]
  | cons v bytes ih => simp [ih, sumAdd, Nat.add_assoc]

/-- Settles O31: SUM after CKCLR and every CKADD is the fold over the bytes. -/
theorem checksumOfBytes : Obligations.ChecksumOfBytes := by
  intro s bytes
  have hadd := execAll_ckadd bytes (s := s.setSelf { s.self with sum := some 0 }) (x := 0) (by simp)
  have hsum : execAll ([.ckclr] ++ bytes.map .ckadd) s =
      .next (s.setSelf { s.self with sum := some (sumBytes bytes) }) := by
    simpa [execAll, exec, execCkclr, sumBytes] using hadd
  refine ⟨_, sumBytes bytes, ?_, by simp [sumBytes, toNat_foldl_sumAdd], rfl, rfl⟩
  rw [execAll_append_of_next hsum]
  simp [execAll, exec, execCkfold, fold, foldConst]

/-! ### O19 and O42: expansions and refusals of one operation -/

/-- RDBIT's shift as arithmetic: bit 7 is lost and the sampled bit comes in as bit 0 (R321). -/
theorem shiftIn_eq (a : Byte) (b : Bool) : shiftIn a b = BitVec.ofNat 8 (2 * a.toNat + b.toNat) := by
  have hdisjoint : a <<< 1 &&& zext8 b = 0 := by
    ext i hi
    cases i <;> cases b <;> simp [zext8]
  have hbit : (zext8 b).toNat = b.toNat := by cases b <;> rfl
  rw [shiftIn, ← BitVec.add_eq_or_of_and_eq_zero _ _ hdisjoint]
  refine BitVec.eq_of_toNat_eq ?_
  simp [hbit, Nat.shiftLeft_eq, Nat.mul_comm]

/-- What is loaded after a sample and a write of a register comes before the steps the issuing agent had to take. -/
theorem State.sampled_load (s : State) {i : Inst} (hi : i.ctx s.cur.kind = s.self.ctx s.cur.kind) (ms : List Micro) :
    (s.afterSample.setSelf i).load ms = (s.afterSample.setSelf i).setCtx s.cur
      { s.ctx s.cur with status := .ready, code := ms ++ (s.ctx s.cur).code } := by
  have hctx : (s.setSelf i).ctx s.cur = s.ctx s.cur := by simpa [State.ctx, State.self] using hi
  rcases s.afterSample_cases with h | h <;> simp [h, State.load, State.setSelf_afterDraw, hctx]

/-- Settles O19: the composites load the rules' expansions, and RDBIT's shift is the rule's arithmetic. -/
theorem compositeExpansions : Obligations.CompositeExpansions := by
  refine fun s => ⟨rfl, rfl, fun b => rfl, fun v => rfl, rfl, fun a hacc => ?_⟩
  have hctx (x : Option Byte) : Inst.ctx { s.self with acc := x } s.cur.kind = s.self.ctx s.cur.kind := by
    cases s.cur.kind <;> rfl
  simp [exec, execRdbit, hacc, shiftIn_eq, s.sampled_load (hctx _), delayRxBit]

/-- Settles O42: both operations test ROLE before anything else. -/
theorem reinitRefused : Obligations.ReinitRefused := fun s hrole =>
  ⟨⟨_, if_pos hrole, s.refuse_spec .reinit⟩, ⟨_, if_pos hrole, s.refuse_spec .reinit⟩⟩

end Sys2Proof.Machine
end

section
/-! PROOFS of the obligations about the line port (40_line_port.md). Two facts carry them: what the line is, by which
levels the ports drive (`State.line_eq_high_iff` and its two companions), and what a port write then does to these levels and
to the trace (`PortWritten.driven_iff`, `State.writePort_trace_ne_iff`), told by the issuer's new port state and the
partner's. -/

namespace Sys2Proof.Machine

/-! ### The line, by what the ports drive -/

/-- The port drives the level `b` (R50, R230). -/
def Inst.Drives (i : Inst) (b : Bool) : Prop := i.dir = .output ∧ i.olat = b

/-- Some port of the link drives the level `b`. -/
def State.Driven (s : State) (b : Bool) : Prop := ∃ d, (s.inst d).Drives b

section
variable {s t : State} {dir : Dir} {olat b : Bool} {d : Side}

theorem resolve_eq_high_iff {i t : Inst} : resolve i t = .high ↔ ¬ (i.Drives false ∨ t.Drives false) := by
  unfold resolve Inst.Drives
  split <;> cases i.olat <;> cases t.olat <;> simp [*]

theorem resolve_eq_contended_iff {i t : Inst} :
    resolve i t = .contended ↔ (i.Drives false ∨ t.Drives false) ∧ (i.Drives true ∨ t.Drives true) := by
  unfold resolve Inst.Drives
  split <;> cases i.olat <;> cases t.olat <;> simp [*]

theorem State.driven_iff_sides : s.Driven b ↔ s.instI.Drives b ∨ s.instT.Drives b :=
  ⟨fun ⟨d, h⟩ => match d with | .I => .inl h | .T => .inr h, fun h => h.elim (⟨.I, ·⟩) (⟨.T, ·⟩)⟩

theorem State.line_eq_high_iff : s.line = .high ↔ ¬ s.Driven false :=
  resolve_eq_high_iff.trans (not_congr State.driven_iff_sides.symm)

theorem State.line_eq_contended_iff : s.line = .contended ↔ s.Driven false ∧ s.Driven true :=
  resolve_eq_contended_iff.trans (and_congr State.driven_iff_sides.symm State.driven_iff_sides.symm)

theorem State.line_eq_low_iff : s.line = .low ↔ s.Driven false ∧ ¬ s.Driven true := by
  have hhigh := s.line_eq_high_iff
  have hcontended := s.line_eq_contended_iff
  cases hline : s.line <;> simp_all

theorem State.line_eq_low_iff_driven (hline : s.line ≠ .contended) : s.line = .low ↔ s.Driven false := by
  rw [ne_eq, State.line_eq_contended_iff] at hline
  rw [State.line_eq_low_iff]
  tauto

theorem State.line_congr (h : ∀ b, t.Driven b ↔ s.Driven b) : t.line = s.line := by
  have hlow := t.line_eq_low_iff
  have hhigh := t.line_eq_high_iff
  rw [h, h, ← s.line_eq_low_iff] at hlow
  rw [h, ← s.line_eq_high_iff] at hhigh
  cases hline : s.line <;> cases ht : t.line <;> simp_all

/-- A level is driven by the issuing controller or by its partner. -/
theorem State.driven_iff : s.Driven b ↔ s.self.Drives b ∨ (s.inst s.cur.side.other).Drives b := by
  constructor
  · rintro ⟨d, h⟩
    by_cases hd : d = s.cur.side
    · subst hd
      exact .inl h
    · exact .inr (Side.eq_other_of_ne hd ▸ h)
  · exact fun h => h.elim (⟨_, ·⟩) (⟨_, ·⟩)

theorem State.line_eq_contended_iff_olat_ne :
    s.line = .contended ↔ s.self.dir = .output ∧ (s.inst s.cur.side.other).dir = .output ∧
      s.self.olat ≠ (s.inst s.cur.side.other).olat := by
  rw [State.line_eq_contended_iff, State.driven_iff, State.driven_iff]
  unfold Inst.Drives
  cases s.self.olat <;> cases (s.inst s.cur.side.other).olat <;> simp [and_comm]

/-- Where the line is not contended, the issuer's own port gives the level it drives. -/
theorem State.line_eq_high_iff_olat (hline : s.line ≠ .contended) (hdir : s.self.dir = .output) :
    s.line = .high ↔ s.self.olat = true := by
  have hown (b : Bool) (h : s.self.olat = b) : s.Driven b := ⟨s.cur.side, hdir, h⟩
  rw [ne_eq, State.line_eq_contended_iff] at hline
  rw [State.line_eq_high_iff]
  cases holat : s.self.olat
  · simp [hown false holat]
  · simpa using fun hlow => hline ⟨hlow, hown true holat⟩

/-! ### A port write: the line, the trace and the edges -/

theorem PortWritten.self_dir (h : PortWritten s t dir olat) : t.self.dir = dir := by rw [h.self]

theorem PortWritten.self_olat (h : PortWritten s t dir olat) : t.self.olat = olat := by rw [h.self]

theorem PortWritten.driven_iff (h : PortWritten s t dir olat) :
    t.Driven b ↔ (dir = .output ∧ olat = b) ∨ (s.inst s.cur.side.other).Drives b := by
  rw [State.driven_iff, h.globals.cur_eq, h.partner, Inst.Drives, h.self_dir, h.self_olat]
  rfl

theorem PortWritten.line_eq_high_iff (h : PortWritten s t .output olat) (hline : t.line ≠ .contended) :
    t.line = .high ↔ olat = true := by
  rw [State.line_eq_high_iff_olat hline h.self_dir, h.self_olat]

/-- The latch of an input is not on the line (R235, R236). -/
theorem PortWritten.line_of_input (h : PortWritten s t s.self.dir olat) (hdir : s.self.dir = .input) :
    t.line = s.line :=
  State.line_congr fun b => by simp [h.driven_iff, State.driven_iff, Inst.Drives, hdir]

theorem PortWritten.edgeEn_eq (h : PortWritten s t dir olat) (d : Side) : (t.inst d).edgeEn = (s.inst d).edgeEn := by
  by_cases hd : d = s.cur.side
  · have hself : (t.inst d).edgeEn = t.self.edgeEn := by rw [hd, State.self, h.globals.cur_eq]
    rw [hself, h.self, hd]
    rfl
  · rw [Side.eq_other_of_ne hd, h.partner]

theorem State.writePort_line_eq_contended_iff : (s.writePort dir olat).line = .contended ↔
    dir = .output ∧ (s.inst s.cur.side.other).dir = .output ∧ olat ≠ (s.inst s.cur.side.other).olat := by
  rw [State.writePort_line, State.line_eq_contended_iff_olat_ne]
  simp

/-- A port write raises LINE_CONTENTION exactly where it first makes the line contended (R231). -/
theorem State.writePort_trace_ne_iff : (s.writePort dir olat).trace ≠ s.trace ↔
    s.line ≠ .contended ∧ (s.writePort dir olat).line = .contended := by
  rw [(s.writePort_spec dir olat).trace]
  split <;> simp_all

theorem State.writePort_trace_ne_iff_olat : (s.writePort dir olat).trace ≠ s.trace ↔
    ¬ (s.self.dir = .output ∧ (s.inst s.cur.side.other).dir = .output ∧
        s.self.olat ≠ (s.inst s.cur.side.other).olat) ∧
      dir = .output ∧ (s.inst s.cur.side.other).dir = .output ∧ olat ≠ (s.inst s.cur.side.other).olat := by
  rw [State.writePort_trace_ne_iff, ne_eq, State.line_eq_contended_iff_olat_ne,
    State.writePort_line_eq_contended_iff]

/-- A latch write contends exactly where it turns an output away from the level that the partner drives with it. -/
theorem State.writeOlat_trace_ne_iff : (s.writeOlat olat).trace ≠ s.trace ↔
    s.self.dir = .output ∧ s.self.olat ≠ olat ∧ (s.inst s.cur.side.other).dir = .output ∧
      (s.inst s.cur.side.other).olat ≠ olat := by
  rw [State.writeOlat, State.writePort_trace_ne_iff_olat]
  by_cases hsame : s.self.olat = olat
  · simp [hsame]
  · have hflip : s.self.olat = !olat := Bool.eq_not.mpr hsame
    simp only [hflip]
    cases olat <;> cases (s.inst s.cur.side.other).olat <;> simp +contextual

theorem State.detect_unchanged (s : State) (d : Side) (l : Line) : s.detect d l l = s := by
  cases l <;> simp [State.detect, unclearEdge]

/-- A port write that writes what the port holds changes nothing (R556). -/
theorem State.writePort_unchanged (s : State) : s.writePort s.self.dir s.self.olat = s := by
  have hset : s.setSelf { s.self with dir := s.self.dir, olat := s.self.olat } = s := s.setSelf_self
  simp [State.writePort, hset, State.detectBoth, State.detect_unchanged]

theorem State.latchEdge_pending (s : State) (d : Side) (f : Option Nat) :
    ((s.latchEdge d f).inst d).edgePend = true := by
  unfold State.latchEdge
  split
  · assumption
  · simp

theorem State.detect_fall_pending (h : (s.inst d).edgeEn = true) :
    ((s.detect d .high .low).inst d).edgePend = true := by
  simp [State.detect, h, State.latchEdge_pending]

/-- A fall is pending at every enabled detector (R380; log entry 11). -/
theorem State.detectBoth_fall_pending (h : (s.inst d).edgeEn = true) :
    ((s.detectBoth .high .low).inst d).edgePend = true := by
  have hI := s.detect_detected .I .high .low
  have hT := (s.detect .I .high .low).detect_detected .T .high .low
  cases d
  · exact (congrArg Inst.edgePend hT.other).trans (State.detect_fall_pending h)
  · exact State.detect_fall_pending ((congrArg Inst.edgeEn hI.other).trans h)

theorem State.writePort_fall_pending (hbefore : s.line = .high) (hafter : (s.writePort dir olat).line = .low)
    (hen : (s.inst d).edgeEn = true) : ((s.writePort dir olat).inst d).edgePend = true := by
  have hkept := (s.writePort_spec dir olat).edgeEn_eq d
  rw [State.writePort_line] at hafter
  rw [State.writePort_eq, hbefore, hafter] at hkept ⊢
  rw [(State.detectBoth_spec _ _ _).inst d] at hkept
  exact State.detectBoth_fall_pending (hkept.trans hen)

end

theorem zext8_eq_one_iff {b : Bool} : zext8 b = 0x01 ↔ b = true := by cases b <;> decide

/-! ### The obligations -/

/-- Settles O9: the two levels that ports drive give the line, so even the hypothesis is not needed. -/
theorem lineOwnership : Obligations.LineOwnership := fun _ _ => State.line_eq_low_iff

/-- Settles O10: SETOUT puts the latch on the line. -/
theorem setoutEffect : Obligations.SetoutEffect := by
  refine ⟨rfl, fun s => ?_⟩
  have h := s.writePort_spec .output s.self.olat
  refine ⟨_, rfl, h, ?_, fun hline => ?_, fun hhigh hlow _ => State.writePort_fall_pending hhigh hlow, fun hdir => ?_⟩
  · rw [State.writeDir, State.writePort_trace_ne_iff_olat]
    cases s.self.dir <;> simp
  · exact h.line_eq_high_iff hline
  · exact hdir ▸ s.writePort_unchanged

/-- Settles O11: after SETIN no port but the partner's drives. -/
theorem setinEffect : Obligations.SetinEffect := by
  refine ⟨rfl, fun s => ?_⟩
  have h := s.writePort_spec .input s.self.olat
  have hline : (s.writePort .input s.self.olat).line ≠ .contended := by simp [State.writePort_line_eq_contended_iff]
  refine ⟨_, rfl, h, ?_, ?_, ?_, hline, fun hdir => ?_⟩
  · exact h.trace.trans (by simp [hline])
  · rw [State.writeDir, h.self]
    exact if_neg fun hc => hline hc.2
  · exact (State.line_eq_low_iff_driven hline).trans (by simp [h.driven_iff, Inst.Drives])
  · exact hdir ▸ s.writePort_unchanged

/-- Settles O12: DRVH first makes the line contended where an output driving 0 with its partner turns to 1. -/
theorem drvhEffect : Obligations.DrvhEffect := by
  refine ⟨rfl, fun s => ?_⟩
  have h := s.writePort_spec s.self.dir true
  refine ⟨_, rfl, h, ?_, h.line_of_input, fun holat => ?_⟩
  · simpa using s.writeOlat_trace_ne_iff (olat := true)
  · exact holat ▸ s.writePort_unchanged

/-- Settles O13: DRVL first makes the line contended where an output driving 1 with its partner turns to 0; else the
output's 0 is on the line. -/
theorem drvlEffect : Obligations.DrvlEffect := by
  refine ⟨rfl, fun s => ?_⟩
  have h := s.writePort_spec s.self.dir false
  refine ⟨_, rfl, h, ?_, h.line_of_input, fun hdir hhigh hline => ?_, fun holat => ?_⟩
  · simpa using s.writeOlat_trace_ne_iff (olat := false)
  · have hlow := (State.line_eq_low_iff_driven hline).mpr (h.driven_iff.mpr (.inl ⟨hdir, rfl⟩))
    exact ⟨hlow, fun _ => State.writePort_fall_pending hhigh hlow⟩
  · exact holat ▸ s.writePort_unchanged

/-- Settles O14: RES is the sampled bit, and the sample takes at most a draw. -/
theorem rdlvlEffect : Obligations.RdlvlEffect := by
  refine ⟨rfl, fun s => ?_⟩
  have hlevel (hline : s.line ≠ .contended) (hnoise : s.params.noise = .none) :
      zext8 s.sample = 0x01 ↔ s.line = .high := by
    rw [zext8_eq_one_iff, (State.sample_level hnoise hline).1, decide_eq_true_iff]
  refine ⟨_, zext8 s.sample, rfl, ?_, hlevel, fun hline hnoise hdir => ?_, ?_⟩
  · cases s.sample <;> decide
  · exact (hlevel hline hnoise).trans (State.line_eq_high_iff_olat hline hdir)
  · rcases s.afterSample_cases with hsame | hdraw
    · rw [hsame]
    · rw [hdraw, State.setSelf_afterDraw]
      rfl

end Sys2Proof.Machine
end

section
/-! PROOFS of the obligations about time (41_timing.md). The step of the link is told by its scheduler: the agent picked
steps (`step_of_pick`), which never stops the machine (`runAgent_next`), or time advances to the least instant at which
an agent is due (`State.nextInstant_le`). On a controller that runs alone only its own ordinary context is ever due
(`State.Alone.due_eq_none`), so what DELAY and WAITH wait for comes at its instant. -/

namespace Sys2Proof.Machine

/-! ### The step of the link, by what the scheduler finds -/

section
variable {s : State} {a : Agent} {n : Nat}

theorem step_of_pick (h : s.pick = some a) : step s = runAgent a s.afterPick := by simp [step, linkStep, h]

theorem step_of_pick_none (h : s.pick = none) (hn : s.nextInstant = some n) : step s = .next { s with now := n } := by
  simp [step, linkStep, h, hn]

theorem State.pick_eq_none_iff : s.pick = none ↔ ∀ a, s.ready a = false := by
  refine ⟨State.not_ready_of_pick_none, fun h => ?_⟩
  have hnil : s.readyAgents = [] := List.filter_eq_nil_iff.mpr fun a _ => by simp [h a]
  simp [State.pick, hnil]

theorem State.ready_eq_false (h : s.due a = none) : s.ready a = false := by simp [State.ready, h]

theorem State.ready_iff_le (h : s.due a = some n) : s.ready a = true ↔ n ≤ s.now := by simp [State.ready, h]

theorem earliest_le_left {x y : Option Nat} (h : x = some n) : ∃ t ≤ n, earliest x y = some t := by
  subst h
  cases y with
  | none => exact ⟨n, le_rfl, rfl⟩
  | some m => exact ⟨min n m, min_le_left n m, rfl⟩

theorem earliest_le_right {x y : Option Nat} (h : y = some n) : ∃ t ≤ n, earliest x y = some t := by
  subst h
  cases x with
  | none => exact ⟨n, le_rfl, rfl⟩
  | some m => exact ⟨min m n, min_le_right m n, rfl⟩

/-- No agent is due before the next instant, and there is one where any agent is due. -/
theorem State.nextInstant_le (h : s.due a = some n) : ∃ t ≤ n, s.nextInstant = some t := by
  have hmem := mem_agents a
  unfold State.nextInstant
  generalize agents = l at hmem
  induction l with
  | nil => cases hmem
  | cons b l ih =>
    rcases List.mem_cons.mp hmem with rfl | hmem
    · exact earliest_le_left h
    · obtain ⟨m, hm, hl⟩ := ih hmem
      obtain ⟨t, ht, hb⟩ := earliest_le_right (x := s.due b) hl
      exact ⟨t, ht.trans hm, hb⟩

theorem State.nextInstant_eq_none_iff : s.nextInstant = none ↔ ∀ a, s.due a = none := by
  constructor
  · intro h a
    refine Option.eq_none_iff_forall_ne_some.mpr fun n hn => ?_
    obtain ⟨t, -, ht⟩ := State.nextInstant_le hn
    simp [h] at ht
  · intro h
    refine Option.eq_none_iff_forall_ne_some.mpr fun n hn => ?_
    obtain ⟨a, ha⟩ := State.due_of_nextInstant hn
    simp [h a] at ha

end

/-- Settles O7: the next instant is the least one at which an agent is due, and none is due yet. -/
theorem timeAdvance : Obligations.TimeAdvance := by
  intro s u b hready hb
  have hpick : s.pick = none := State.pick_eq_none_iff.mpr hready
  obtain ⟨t, htu, ht⟩ := State.nextInstant_le hb
  refine ⟨t, step_of_pick_none hpick ht, State.now_lt_nextInstant hpick ht, htu, fun a v ha => ?_,
    State.due_of_nextInstant ht⟩
  obtain ⟨t', hle, ht'⟩ := State.nextInstant_le ha
  cases ht.symm.trans ht'
  exact hle

/-! ### No operation stops the machine -/

section
variable (s : State)

theorem exec_next (i : Instr) : ∃ t, exec i s = .next t := by
  cases i with
  | delay | waith | initi | initt | txn | tgtisr =>
    simp only [exec, execDelay, execWaith, execIniti, execInitt, execTxn, execTgtisr]
    split <;> exact ⟨_, rfl⟩
  | _ => exact ⟨_, rfl⟩

theorem runMicro_next (m : Micro) : ∃ t, runMicro m s = .next t := by
  cases m with
  | op i => exact exec_next s i
  | _ => exact ⟨_, rfl⟩

theorem runContext_next (c : ContextId) : ∃ t, runContext c s = .next t := by
  unfold runContext
  split
  · exact ⟨_, rfl⟩
  · next m ms _ =>
    obtain ⟨t, ht⟩ := runMicro_next (s.running c ms) m
    exact ⟨t.finish, congrArg (andThen · State.finish) ht⟩

theorem issueHost_next (d : Side) : ∃ t, issueHost d s = .next t := by
  unfold issueHost
  split
  · exact ⟨_, rfl⟩
  · exact ⟨_, rfl⟩
  · split
    · exact ⟨_, rfl⟩
    · exact exec_next _ _
    · exact ⟨_, rfl⟩
    · exact ⟨_, rfl⟩

theorem runAgent_next (a : Agent) : ∃ t, runAgent a s = .next t := by
  cases a with
  | context c =>
    simp only [runAgent]
    split
    · exact issueHost_next s c.side
    · exact runContext_next s c
  | edge d => exact ⟨_, rfl⟩
  | reset d => exact ⟨_, rfl⟩

variable {s}

theorem step_next_of_due {a : Agent} {u : Nat} (h : s.due a = some u) : ∃ t, step s = .next t := by
  cases hpick : s.pick with
  | some b => exact step_of_pick hpick ▸ runAgent_next _ b
  | none =>
    obtain ⟨n, -, hn⟩ := State.nextInstant_le h
    exact ⟨_, step_of_pick_none hpick hn⟩

theorem step_quiescent_of_due_none (h : ∀ a, s.due a = none) : step s = .fault .quiescent := by
  have hpick : s.pick = none := State.pick_eq_none_iff.mpr fun a => State.ready_eq_false (h a)
  simp [step, linkStep, hpick, State.nextInstant_eq_none_iff.mpr h]

end

/-- Settles O8: where an agent is due the step answers a next state, and where none is the run is quiescent. -/
theorem quiescentStops : Obligations.QuiescentStops := by
  refine fun s => ⟨⟨fun hstop a => ?_, step_quiescent_of_due_none⟩, fun a u => step_next_of_due⟩
  refine Option.eq_none_iff_forall_ne_some.mpr fun u hu => ?_
  obtain ⟨t, ht⟩ := step_next_of_due hu
  cases hstop.symm.trans ht

/-! ### O5 and O6: the step of a context -/

/-- The state once a step of context `c`, which issued what ran, has made the context `x`. -/
def State.turn (s : State) (c : ContextId) (x : Context) : State := { s.setCtx c x with cur := c }

@[simp] theorem State.turn_inst (s : State) (c : ContextId) (x : Context) :
    (s.turn c x).inst c.side = (s.inst c.side).setCtx c.kind x := s.setCtx_withCur_inst c c x

@[simp] theorem State.turn_ctx (s : State) (c : ContextId) (x : Context) : (s.turn c x).ctx c = x :=
  (congrArg (Inst.ctx · c.kind) (s.turn_inst c x)).trans (Inst.ctx_setCtx _ _ _)

@[simp] theorem State.turn_cur (s : State) (c : ContextId) (x : Context) : (s.turn c x).cur = c := rfl

theorem State.turn_now (s : State) (c : ContextId) (x : Context) : (s.turn c x).now = s.now := s.setCtx_now c x

theorem State.turn_line (s : State) (c : ContextId) (x : Context) : (s.turn c x).line = s.line := s.setCtx_line c x

section
variable {s : State} {c : ContextId} {d : Side}

@[simp] theorem State.afterPick_ctx (s : State) (c : ContextId) : s.afterPick.ctx c = s.ctx c := by simp [State.ctx]

theorem runAgent_idle (h : (s.ctx c).status = .idle) : runAgent (.context c) s = issueHost c.side s := if_pos h

theorem runAgent_busy (h : (s.ctx c).status ≠ .idle) : runAgent (.context c) s = runContext c s := if_neg h

theorem issueHost_op {time : Nat} {bytes rest : List Byte} {items : List HostItem} {i : Instr}
    (hscript : (s.inst d).script = { time := time, move := .words bytes } :: items)
    (h : decodeSequence bytes = .op i rest) :
    issueHost d s = exec i (s.issue d i.opcode (scriptAfter time rest items)) := by
  simp [issueHost, hscript, h]

theorem runContext_nil (h : (s.ctx c).code = []) :
    runContext c s = .next (s.turn c { s.ctx c with status := .idle }) := by
  simp [runContext, h, State.turn]

theorem runContext_cons {m : Micro} {ms : List Micro} (h : (s.ctx c).code = m :: ms) :
    runContext c s = andThen (runMicro m (s.running c ms)) State.finish := by
  simp [runContext, h, State.running]

end

/-- Settles O5: an idle context that is picked issues its host's next word. -/
theorem stepRunsDecodedWord : Obligations.StepRunsDecodedWord := by
  intro s d time bytes rest items i hpick hidle hscript hdecode
  have hidle' : (s.afterPick.ctx { side := d, kind := .ordinary }).status = .idle :=
    (congrArg Context.status (s.afterPick_ctx _)).trans hidle
  rw [step_of_pick hpick, runAgent_idle hidle', issueHost_op (by simpa using hscript) hdecode]

/-- Settles O6: a context that is picked in a sequence takes the first of its steps. -/
theorem stepRunsSequence : Obligations.StepRunsSequence := by
  intro s c m ms hpick hbusy hcode
  rw [step_of_pick hpick, runAgent_busy (by simpa using hbusy), runContext_cons (by simpa using hcode), State.running,
    State.afterPick_ctx]

/-! ### DELAY and WAITH as operations -/

section
variable {s : State}

theorem State.setCtx_afterDraw (s : State) (c : ContextId) (x : Context) :
    s.afterDraw.setCtx c x = (s.setCtx c x).afterDraw := by
  obtain ⟨d, k⟩ := c
  cases d <;> rfl

theorem State.sleep_eq (s : State) (d : Nat) : s.sleep d =
    (s.setCtx s.cur
      { s.ctx s.cur with status := .sleeping (s.now + d + drawUpTo s.params.jDelay s.drawn) }).afterDraw := by
  simp [State.sleep, State.setStatus, State.setCtx_afterDraw]

theorem State.pollAgain_eq (s : State) : s.pollAgain =
    (s.setCtx s.cur
      { s.ctx s.cur with
        status := .polling (s.now + 1 + drawUpTo (s.params.jPoll - 1) s.drawn)
        code := .op .waith :: (s.ctx s.cur).code }).afterDraw := State.setCtx_afterDraw s _ _

/-- Exactly the selectors 10 to 15 are reserved (R182). -/
theorem param_eq_none_iff {p : Params} {sel : BitVec 4} : param p sel = none ↔ 10 ≤ sel.toNat := by
  unfold param
  split
  rotate_right
  · refine iff_of_true rfl ?_
    simp only [imp_false] at *
    omega
  all_goals exact iff_of_false nofun (by omega)

theorem exec_delay {sel : BitVec 4} {v : Nat} (h : param s.params sel = some v) :
    exec (.delay sel) s = .next (s.sleep v) := by simp [exec, execDelay, h]

theorem exec_delay_reserved {sel : BitVec 4} (h : 10 ≤ sel.toNat) :
    exec (.delay sel) s = .next (s.refuse .badOperand) := by simp [exec, execDelay, param_eq_none_iff.mpr h]

theorem exec_waith_of_poll (h : s.poll = true) : exec .waith s = .next s.afterPoll := by simp [exec, execWaith, h]

theorem exec_waith_of_not_poll (h : s.poll = false) : exec .waith s = .next s.afterPoll.pollAgain := by
  simp [exec, execWaith, h]

theorem exec_waith_of_low (h : s.line = .low) : exec .waith s = .next s.pollAgain := by
  obtain ⟨hpoll, hafter⟩ := State.poll_level (s := s) (by simp [h])
  rw [exec_waith_of_not_poll (by simp [hpoll, h]), hafter]

/-- A poll of a contended line is the next draw (R231, R264). -/
theorem State.poll_contended (h : s.line = .contended) : s.poll = drawBit s.drawn ∧ s.afterPoll = s.afterDraw := by
  simp [State.poll, State.afterPoll, h]

end

/-- Settles O15: the selectors name the ten parameters, and DELAY changes nothing but its agent's status and a draw. -/
theorem delayEffect : Obligations.DelayEffect := by
  refine ⟨fun p => ⟨rfl, rfl, rfl, rfl, rfl, rfl, rfl, rfl, rfl, rfl, fun sel => param_eq_none_iff.mpr⟩,
    fun _ _ _ _ _ _ _ _ => ⟨rfl, rfl, rfl, rfl, rfl, rfl, rfl, rfl, rfl, rfl⟩, fun _ => rfl, fun x hx => ?_,
    fun s sel => ⟨fun hsel => ?_, fun hsel => ⟨_, exec_delay_reserved hsel, s.refuse_spec _⟩⟩⟩
  · exact decodeSequence_of_badOperand (decode_of_decodeSel_none [] rfl (if_neg (by omega)))
  · have hsome : param s.params sel ≠ none := mt param_eq_none_iff.mp (by omega)
    obtain ⟨v, hv⟩ := Option.ne_none_iff_exists'.mp hsome
    have hdraw := drawUpTo_le s.params.jDelay s.drawn
    exact ⟨v, s.now + v + drawUpTo s.params.jDelay s.drawn, s.sleep v, hv, exec_delay hv, by omega, by omega,
      by rw [State.sleep_eq]; rfl⟩

/-- Settles O17: a poll takes no time, and one that reads 0 leaves its agent polling. -/
theorem waithEffect : Obligations.WaithEffect := by
  have hgap {s : State} (hpoll : 1 ≤ s.params.jPoll) (n : Nat) :
      s.now + 1 + drawUpTo (s.params.jPoll - 1) n ≤ s.now + s.params.jPoll := by
    have := drawUpTo_le (s.params.jPoll - 1) n
    omega
  refine ⟨fun s hline => ?_, fun s hline hpoll => ?_, fun s hline hbit => ?_, fun s hline hbit hpoll => ?_⟩
  · obtain ⟨hread, hafter⟩ := State.poll_level (s := s) (by simp [hline])
    rw [exec_waith_of_poll (by simp [hread, hline]), hafter]
  · exact ⟨_, _, exec_waith_of_low hline, by omega, hgap hpoll s.drawn, by rw [State.pollAgain_eq]; rfl⟩
  · obtain ⟨hread, hafter⟩ := State.poll_contended hline
    exact ⟨_, exec_waith_of_poll (hread.trans hbit), by rw [hafter]; rfl⟩
  · obtain ⟨hread, hafter⟩ := State.poll_contended hline
    refine ⟨_, _, exec_waith_of_not_poll (hread.trans hbit), by omega, hgap hpoll s.afterDraw.drawn, ?_⟩
    rw [hafter, State.pollAgain_eq, State.setCtx_afterDraw, State.afterDraw_ctx]
    rfl

/-! ### Runs -/

section
variable {s t u : State}

/-- A run goes on from the next state. -/
theorem run_succ {M : Host.Core} {x y : M.State} (h : M.step x = .next y) (n : Nat) : M.run (n + 1) x = M.run n y := by
  simp [Host.Core.run, h]

theorem Reaches.refl (s : State) : Reaches s s := ⟨0, rfl⟩

theorem Reaches.head (h : step s = .next t) : Reaches t u → Reaches s u
  | ⟨n, hn⟩ => ⟨n + 1, (run_succ (M := Sys2Proof.core) h n).trans hn⟩

end

/-! ### A controller that runs alone -/

/-- The ordinary context of a controller, its engine's and its host's. -/
def Side.host (d : Side) : ContextId := { side := d, kind := .ordinary }

/-- The state once time has advanced to `n` (R261 rule 3). -/
def State.advanceTo (s : State) (n : Nat) : State := { s with now := n }

@[simp] theorem State.advanceTo_inst (s : State) (n : Nat) (d : Side) : (s.advanceTo n).inst d = s.inst d := by
  cases d <;> rfl

@[simp] theorem State.advanceTo_ctx (s : State) (n : Nat) (c : ContextId) : (s.advanceTo n).ctx c = s.ctx c :=
  congrArg (Inst.ctx · c.kind) (s.advanceTo_inst n c.side)

section
variable {s : State} {d : Side} {a b : Agent} {u : Nat}

theorem nodup_agents : agents.Nodup := by decide

theorem State.readyAgents_of_only (h : ∀ a, s.ready a = true ↔ a = b) : s.readyAgents = [b] := by
  have hfilter : s.readyAgents = agents.filter (· == b) :=
    List.filter_congr fun a _ => Bool.eq_iff_iff.mpr ((h a).trans beq_iff_eq.symm)
  rw [hfilter, List.filter_beq, List.count_eq_one_of_mem nodup_agents (mem_agents b), List.replicate_one]

/-- Where one agent alone is due, it steps at its instant. -/
theorem step_of_only_due (hb : s.due b = some u) (honly : ∀ a, a ≠ b → s.due a = none) (hu : u ≤ s.now) :
    step s = runAgent b s := by
  have hagents : s.readyAgents = [b] := State.readyAgents_of_only fun a => by
    by_cases hab : a = b
    · simp [hab, State.ready_iff_le hb, hu]
    · simp [hab, State.ready_eq_false (honly a hab)]
  have hpick : s.pick = some b := by simp [State.pick, hagents]
  rw [step_of_pick hpick, State.afterPick, hagents]

/-- Where one agent alone is due, time advances to its instant. -/
theorem step_advance_of_only_due (hb : s.due b = some u) (honly : ∀ a, a ≠ b → s.due a = none) (hu : s.now < u) :
    step s = .next (s.advanceTo u) := by
  have hready (a : Agent) : s.ready a = false := by
    by_cases hab : a = b
    · exact Bool.eq_false_iff.mpr fun h => by
        rw [hab, State.ready_iff_le hb] at h
        omega
    · exact State.ready_eq_false (honly a hab)
  obtain ⟨t, hstep, -, -, -, a, ha⟩ := timeAdvance s u b hready hb
  have hab : a = b := by
    by_contra hne
    simp [honly a hne] at ha
  cases (hab ▸ ha).symm.trans hb
  exact hstep

/-- What a controller that runs alone leaves of both controllers: no reset, no delivery, no handler. -/
theorem State.Alone.quiet (h : s.Alone d) (e : Side) : (s.inst e).resets = [] ∧ (s.inst e).role ≠ .target ∧
    (s.inst e).deliverAt = none ∧ (s.inst e).interrupt.status = .idle := by
  cases e
  · exact ⟨h.noResets.1, h.noTarget.1, h.noDelivery.1, h.noHandler.1⟩
  · exact ⟨h.noResets.2, h.noTarget.2, h.noDelivery.2, h.noHandler.2⟩

/-- Nothing but the ordinary context of a controller that runs alone is ever due. -/
theorem State.Alone.due_eq_none (h : s.Alone d) (ha : a ≠ .context d.host) : s.due a = none := by
  obtain ⟨hresets, hrole, hdeliver, hhandler⟩ := h.quiet a.side
  cases a with
  | context c =>
    obtain ⟨e, kind⟩ := c
    cases kind with
    | ordinary =>
      obtain ⟨hidle, hscript⟩ := h.partnerIdle
      have he : e = d.other := Side.eq_other_of_ne fun he => ha (by rw [he]; rfl)
      simp [he, State.due, Inst.contextDue, Inst.ctx, hidle, Inst.hostDue, hscript]
    | interrupt =>
      change (s.inst e).interrupt.status = .idle at hhandler
      simp [State.due, Inst.contextDue, Inst.ctx, hhandler]
  | edge e =>
    change (s.inst e).deliverAt = none at hdeliver
    change (s.inst e).role ≠ .target at hrole
    have hnot : (s.inst e).deliverable = false := by simp [Inst.deliverable, hrole]
    simp [State.due, Inst.edgeDue, hnot, hdeliver]
  | reset e => exact congrArg List.head? hresets

theorem State.Alone.setCtx (h : s.Alone d) (x : Context) : (s.setCtx d.host x).Alone d := by
  cases d <;> exact { h with }

theorem State.Alone.afterDraw (h : s.Alone d) : s.afterDraw.Alone d := by
  cases d <;> exact { h with }

theorem State.Alone.advanceTo (h : s.Alone d) (n : Nat) : (s.advanceTo n).Alone d := by
  cases d <;> exact { h with }

theorem State.Alone.turn (h : s.Alone d) (x : Context) : (s.turn d.host x).Alone d := by
  cases d <;> exact { h with }

theorem State.Alone.due_of_waiting (h : s.Alone d)
    (hs : (s.ctx d.host).status = .sleeping u ∨ (s.ctx d.host).status = .polling u) :
    s.due (.context d.host) = some u := by
  simp only [State.ctx, Side.host] at hs
  rcases hs with hs | hs <;> simp [State.due, Inst.contextDue, Side.host, h.notMasked, hs]

/-- A context that waits on a controller that runs alone steps at its instant. -/
theorem State.Alone.step_of_due (h : s.Alone d) (hdue : s.due (.context d.host) = some u)
    (hbusy : (s.ctx d.host).status ≠ .idle) (hu : u ≤ s.now) : step s = runContext d.host s :=
  (step_of_only_due hdue (fun _ => h.due_eq_none) hu).trans (runAgent_busy hbusy)

/-- Until then time advances to its instant. -/
theorem State.Alone.step_advance (h : s.Alone d) (hdue : s.due (.context d.host) = some u) (hu : s.now < u) :
    step s = .next (s.advanceTo u) :=
  step_advance_of_only_due hdue (fun _ => h.due_eq_none) hu

end

/-! ### O16: DELAY on a controller that runs alone -/

section
variable {s t : State} {d : Side} {u : Nat}

/-- A controller that runs alone comes to the instant at which it is due. -/
theorem State.Alone.reaches_of_due (h : s.Alone d) (hdue : s.due (.context d.host) = some u)
    (hgo : Reaches (s.advanceTo (max s.now u)) t) : Reaches s t := by
  rcases Nat.lt_or_ge s.now u with hu | hu
  · rw [max_eq_right hu.le] at hgo
    exact .head (h.step_advance hdue hu) hgo
  · rwa [max_eq_left hu] at hgo

/-- An agent that sleeps with nothing left to do is idle at its instant. -/
theorem State.Alone.reaches_idle (h : s.Alone d) (hs : (s.ctx d.host).status = .sleeping u)
    (hcode : (s.ctx d.host).code = []) :
    ∃ t, Reaches s t ∧ t.now = max s.now u ∧ (t.ctx d.host).status = .idle ∧ (t.ctx d.host).code = [] := by
  have hctx := s.advanceTo_ctx (max s.now u) d.host
  have hwoken : (s.advanceTo (max s.now u)).Alone d := h.advanceTo _
  have hstep := hwoken.step_of_due (hwoken.due_of_waiting (.inl (hctx ▸ hs))) (by simp [hs]) (le_max_right s.now u)
  rw [runContext_nil (by rw [hctx, hcode])] at hstep
  refine ⟨_, h.reaches_of_due (h.due_of_waiting (.inl hs)) (.head hstep (.refl _)), State.turn_now _ _ _, ?_⟩
  simp [hcode]

end

/-- Settles O16: nothing else is due while the agent sleeps, so it wakes at its instant. -/
theorem delayCompletes : Obligations.DelayCompletes := by
  rintro s d sel v halone ⟨hcur, -, hcode⟩ hparam
  have hdraw := drawUpTo_le s.params.jDelay s.drawn
  change s.cur = d.host at hcur
  have hsleep := s.sleep_eq v
  rw [hcur] at hcode hsleep
  have halone' : (s.sleep v).Alone d := hsleep ▸ (halone.setCtx _).afterDraw
  have hctx : (s.sleep v).ctx d.host =
      { s.ctx d.host with status := .sleeping (s.now + v + drawUpTo s.params.jDelay s.drawn) } := by simp [hsleep]
  obtain ⟨t, hreach, htime, hidle, hdone⟩ :=
    halone'.reaches_idle (congrArg Context.status hctx) (by simp [hctx, hcode])
  have hnow : (s.sleep v).now = s.now := by simp [hsleep]
  rw [hnow] at htime
  exact ⟨_, t, exec_delay hparam, hreach, hcur ▸ hidle, hcur ▸ hdone, by omega, by omega⟩

/-! ### O18: WAITH while the line is low -/

/-- The ordinary context of `d`, on a controller that runs alone, polls a line that is low, with `rest` to do after its
WAITH. -/
structure State.PollsLow (s : State) (d : Side) (rest : List Micro) : Prop where
  alone : s.Alone d
  line : s.line = .low
  polling : ∃ u, (s.ctx d.host).status = .polling u
  code : (s.ctx d.host).code = .op .waith :: rest

section
variable {s : State} {d : Side} {c : ContextId} {rest : List Micro}

theorem State.finish_of_not_ready (h : (s.ctx s.cur).status ≠ .ready) : s.finish = s := by
  simp [State.finish, h]

theorem State.running_pollAgain (s : State) (c : ContextId) (rest : List Micro) : ∃ u,
    (s.running c rest).pollAgain =
      (s.turn c { s.ctx c with status := .polling u, code := .op .waith :: rest }).afterDraw := by
  obtain ⟨d, k⟩ := c
  cases d <;> cases k <;> exact ⟨_, rfl⟩

/-- A poll of the low line leaves its context polling, and changes nothing else but a draw and the issuer. -/
theorem runContext_waith_low (hline : s.line = .low) (hcode : (s.ctx c).code = .op .waith :: rest) :
    ∃ u, runContext c s =
      .next (s.turn c { s.ctx c with status := .polling u, code := .op .waith :: rest }).afterDraw := by
  obtain ⟨u, hpoll⟩ := s.running_pollAgain c rest
  have hlow : (s.running c rest).line = .low := (s.turn_line c _).trans hline
  refine ⟨u, (runContext_cons hcode).trans ?_⟩
  rw [runMicro, exec_waith_of_low hlow, hpoll, andThen, State.finish_of_not_ready (by simp)]

theorem State.PollsLow.step (h : s.PollsLow d rest) :
    ∃ t, step s = .next t ∧ t.PollsLow d rest ∧ (t.inst d).faults = (s.inst d).faults := by
  obtain ⟨u, hpolling⟩ := h.polling
  have hdue := h.alone.due_of_waiting (.inr hpolling)
  rcases Nat.lt_or_ge s.now u with hu | hu
  · exact ⟨_, h.alone.step_advance hdue hu,
      ⟨h.alone.advanceTo u, h.line, ⟨u, by simp [hpolling]⟩, by simp [h.code]⟩, by simp⟩
  · obtain ⟨v, hrun⟩ := runContext_waith_low h.line h.code
    refine ⟨_, (h.alone.step_of_due hdue (by simp [hpolling]) hu).trans hrun,
      ⟨(h.alone.turn _).afterDraw, (s.turn_line _ _).trans h.line, ⟨v, by simp⟩, by simp⟩, ?_⟩
    rw [State.afterDraw_inst]
    exact (congrArg Inst.faults (s.turn_inst d.host _)).trans (Inst.setCtx_faults _ _ _)

theorem State.PollsLow.run (h : s.PollsLow d rest) (n : Nat) :
    ∃ t, Host.Core.run Sys2Proof.core n s = .next t ∧ t.PollsLow d rest ∧
      (t.inst d).faults = (s.inst d).faults := by
  induction n generalizing s with
  | zero => exact ⟨s, rfl, h, rfl⟩
  | succ n ih =>
    obtain ⟨v, hstep, hv, hfaults⟩ := h.step
    obtain ⟨t, hrun, ht, hrest⟩ := ih hv
    exact ⟨t, (run_succ (M := Sys2Proof.core) hstep n).trans hrun, ht, hrest.trans hfaults⟩

end

/-- Settles O18: every step from a poll of the low line leads to one, or to the instant of the next. -/
theorem waithNeverTimesOut : Obligations.WaithNeverTimesOut := by
  intro s d u rest halone hline hpolling hcode n
  obtain ⟨t, hrun, ⟨-, hlow, ⟨v, hv⟩, hrest⟩, hfaults⟩ :=
    State.PollsLow.run (s := s) ⟨halone, hline, ⟨u, hpolling⟩, hcode⟩ n
  exact ⟨t, v, hrun, hlow, hv, hrest, hfaults⟩

end Sys2Proof.Machine
end

section
/-! PROOFS of the obligations about the byte framer (42_framer.md). A run of the ordinary context of a controller that
runs alone is followed from one zero-time step to the next (`State.RunsAt`): what the fields of its controller are, which
steps are left, and when the next one comes. One rule per zero-time step (`State.RunsAt.port`, `State.RunsAt.delay`,
`State.RunsAt.rdbit`) leads to the next such state; the composites are these rules one after the other. -/

namespace Sys2Proof.Machine

/-! ### What a run of one controller leaves as it was -/

section
variable {o s t : State} {d : Side} {i j : Inst} {m : Micro}

theorem Reaches.trans {u : State} : Reaches s t → Reaches t u → Reaches s u
  | ⟨n, hn⟩, htu => by
    induction n generalizing s with
    | zero => cases hn; exact htu
    | succ n ih =>
      simp only [Host.Core.run] at hn
      split at hn
      · next v hv => exact .head hv (ih hn)
      · cases hn
      · cases hn

theorem SameButControl.acc_eq (h : SameButControl i j) : j.acc = i.acc := by rw [h]

theorem SameButControl.res_eq (h : SameButControl i j) : j.res = i.res := by rw [h]

theorem SameButControl.setAcc (h : SameButControl i j) (a : Option Byte) :
    SameButControl { i with acc := a } { j with acc := a } := by
  unfold SameButControl at *
  rw [h]

theorem SameButControl.setRes (h : SameButControl i j) (a : Option Byte) :
    SameButControl { i with res := a } { j with res := a } := by
  unfold SameButControl at *
  rw [h]

theorem SameButControl.load (h : SameButControl i s.self) (ms : List Micro) : SameButControl i (s.load ms).self := by
  rw [State.self_load]
  exact h.trans (Inst.sameButControl_setCtx _ _ _)

/-- The conditions of running alone, each of both controllers at once. -/
theorem State.Alone.of_quiet
    (hquiet : ∀ e, (s.inst e).resets = [] ∧ (s.inst e).role ≠ .target ∧ (s.inst e).deliverAt = none ∧
      (s.inst e).interrupt.status = .idle)
    (hmasked : (s.inst d).inIsr = false)
    (hpartner : (s.inst d.other).ordinary.status = .idle ∧ (s.inst d.other).script = []) : s.Alone d := by
  obtain ⟨hresetsI, hroleI, hdeliverI, hhandlerI⟩ := hquiet .I
  obtain ⟨hresetsT, hroleT, hdeliverT, hhandlerT⟩ := hquiet .T
  exact ⟨⟨hresetsI, hresetsT⟩, ⟨hroleI, hroleT⟩, ⟨hdeliverI, hdeliverT⟩, ⟨hhandlerI, hhandlerT⟩, hmasked, hpartner⟩

/-- Only INITT makes a target, and only the handler's return ends a handler; no step plans a reset or a delivery. -/
theorem Writes.quiet_eq (h : Writes s m i) (harm : m ≠ .armTarget) (hreturn : m ≠ .handlerReturn) :
    i.resets = s.self.resets ∧ (s.self.role ≠ .target → i.role ≠ .target) ∧ i.deliverAt = s.self.deliverAt ∧
      i.inIsr = s.self.inIsr := by
  cases h with
  | armTarget => exact absurd rfl harm
  | handlerReturn => exact absurd rfl hreturn
  | initi => exact ⟨rfl, fun _ => nofun, rfl, rfl⟩
  | _ => exact ⟨rfl, id, rfl, rfl⟩

theorem State.Issuing.cur_eq (h : s.Issuing d) : s.cur = d.host := h.1

theorem State.Issuing.code_eq (h : s.Issuing d) : (s.ctx d.host).code = [] := by
  rw [← h.cur_eq]
  obtain ⟨-, -, hcode⟩ := h
  exact hcode

theorem State.self_of_cur (h : s.cur = d.host) : s.self = s.inst d := by rw [State.self, h]; rfl

/-- A controller that runs alone still does so after a step of its own. -/
theorem State.Alone.runMicro (h : s.Alone d) (hcur : s.cur = d.host) (hrun : runMicro m s = .next t)
    (harm : m ≠ .armTarget) (hreturn : m ≠ .handlerReturn) : t.Alone d := by
  obtain ⟨i, hwrites, heffect⟩ := runMicro_microEffect hrun
  obtain ⟨hresets, hrole, hdeliver, hisr⟩ := hwrites.quiet_eq harm hreturn
  have hcur' : t.cur = d.host := heffect.globals.cur_eq.trans hcur
  have hself : SameButControl i (t.inst d) := State.self_of_cur hcur' ▸ heffect.self
  have hpartner := heffect.partner
  have hinterrupt := (runMicro_onlyOwnContext hrun hreturn).ctx { side := d, kind := .interrupt }
    (by simp [hcur, Side.host])
  change (t.inst d).interrupt = (s.inst d).interrupt at hinterrupt
  rw [State.self_of_cur hcur] at hresets hrole hdeliver hisr
  rw [hcur] at hpartner
  change SameButEdges (s.inst d.other) (t.inst d.other) at hpartner
  refine .of_quiet (fun e => ?_) ?_ ?_
  · by_cases he : e = d
    · subst he
      obtain ⟨hr, hro, hd, hh⟩ := h.quiet e
      refine ⟨?_, ?_, ?_, hinterrupt ▸ hh⟩
      · rw [hself]; exact hresets.trans hr
      · rw [hself]; exact hrole hro
      · rw [hself]; exact hdeliver.trans hd
    · rw [Side.eq_other_of_ne he, hpartner]
      exact h.quiet d.other
  · rw [hself]
    exact hisr.trans h.notMasked
  · rw [hpartner]
    exact h.partnerIdle

/-- `s` is a state of the run in which the ordinary context of `d`, alone, goes on from `o`: its controller has the
fields of `i` but for control state, and the partner is as it was but for its latched edge. -/
structure State.RunsAlone (o s : State) (d : Side) (i : Inst) : Prop where
  alone : s.Alone d
  cur : s.cur = d.host
  params : s.params = o.params
  self : SameButControl i s.self
  partner : SameButEdges (o.inst d.other) (s.inst d.other)

theorem State.RunsAlone.start (halone : s.Alone d) (hissue : s.Issuing d) : State.RunsAlone s s d s.self :=
  ⟨halone, hissue.cur_eq, rfl, .refl _, .refl _⟩

theorem State.RunsAlone.runMicro (h : o.RunsAlone s d i) (hrun : runMicro m s = .next t)
    (hm : m ≠ .armTarget ∧ m ≠ .handlerReturn) (hself : SameButControl j t.self) : o.RunsAlone t d j := by
  obtain ⟨k, -, heffect⟩ := runMicro_microEffect hrun
  have hpartner := heffect.partner
  rw [h.cur] at hpartner
  exact ⟨h.alone.runMicro h.cur hrun hm.1 hm.2, heffect.globals.cur_eq.trans h.cur,
    heffect.globals.params_eq.trans h.params, hself, h.partner.trans hpartner⟩

theorem State.RunsAlone.advanceTo (h : o.RunsAlone s d i) (n : Nat) : o.RunsAlone (s.advanceTo n) d i where
  alone := h.alone.advanceTo n
  cur := h.cur
  params := h.params
  self := by rw [State.self, State.advanceTo_inst]; exact h.self
  partner := by rw [State.advanceTo_inst]; exact h.partner

theorem State.RunsAlone.turn (h : o.RunsAlone s d i) (x : Context) : o.RunsAlone (s.turn d.host x) d i where
  alone := h.alone.turn x
  cur := rfl
  params := (s.setCtx_params d.host x).trans h.params
  self := by
    rw [State.self_of_cur (d := d) rfl]
    refine (State.self_of_cur h.cur ▸ h.self).trans ?_
    exact (s.turn_inst d.host x).symm ▸ Inst.sameButControl_setCtx _ _ _
  partner := by
    have hkept : (s.turn d.host x).inst d.other = s.inst d.other := s.setCtx_withCur_partner d.host d.host x
    exact hkept.symm ▸ h.partner

/-- What is driven in such a state: its own port and the partner's, which is as it was. -/
theorem State.RunsAlone.driven_iff (h : o.RunsAlone s d i) {b : Bool} :
    s.Driven b ↔ i.Drives b ∨ (o.inst d.other).Drives b := by
  have hpartner : s.inst s.cur.side.other = s.inst d.other := by rw [h.cur]; rfl
  rw [State.driven_iff, hpartner, h.partner]
  simp only [Inst.Drives, h.self.dir_eq, h.self.olat_eq]

end

/-! ### The place in the run: what is left to do, and when it goes on -/

/-- The context goes on at `u`: it is ready, it waits until then, or its sequence has ended. -/
inductive Context.GoesOn (x : Context) (now u : Nat) : Prop where
  | ready (hstatus : x.status = .ready) (hu : u = now)
  | waiting (hstatus : x.status = .sleeping u ∨ x.status = .polling u) (hu : now ≤ u)
  | ended (hstatus : x.status = .idle) (hcode : x.code = []) (hu : u = now)

/-- A state of the run in which the context goes on at `u` and has the steps `ms` left. -/
structure State.RunsAt (o s : State) (d : Side) (i : Inst) (u : Nat) (ms : List Micro) : Prop
    extends State.RunsAlone o s d i where
  code : (s.ctx d.host).code = ms
  goesOn : (s.ctx d.host).GoesOn s.now u

/-- The state in which the ordinary context of `d` takes a step at `u`, with `ms` left after it. -/
def State.turnAt (s : State) (d : Side) (u : Nat) (ms : List Micro) : State := (s.advanceTo u).running d.host ms

section
variable {o s t : State} {d : Side} {i j : Inst} {m : Micro} {ms rest : List Micro} {u w v : Nat} {op : Instr}

@[simp] theorem State.turnAt_ctx (s : State) (d : Side) (u : Nat) (ms : List Micro) :
    (s.turnAt d u ms).ctx d.host = { s.ctx d.host with status := .ready, code := ms } := by
  rw [← s.advanceTo_ctx u]
  exact State.turn_ctx _ _ _

@[simp] theorem State.turnAt_cur (s : State) (d : Side) (u : Nat) (ms : List Micro) :
    (s.turnAt d u ms).cur = d.host := rfl

@[simp] theorem State.turnAt_now (s : State) (d : Side) (u : Nat) (ms : List Micro) : (s.turnAt d u ms).now = u :=
  State.turn_now _ _ _

@[simp] theorem State.turnAt_env (s : State) (d : Side) (u : Nat) (ms : List Micro) : (s.turnAt d u ms).env = s.env :=
  State.setCtx_env _ _ _

@[simp] theorem State.turnAt_params (s : State) (d : Side) (u : Nat) (ms : List Micro) :
    (s.turnAt d u ms).params = s.params := State.setCtx_params _ _ _

theorem State.turnAt_line (s : State) (d : Side) (u : Nat) (ms : List Micro) : (s.turnAt d u ms).line = s.line :=
  State.turn_line _ _ _

theorem State.setCtx_cur_eq_turn (s : State) (x : Context) : s.setCtx s.cur x = s.turn s.cur x := by
  rcases s with ⟨_, _, _, _, _, _, ⟨d, k⟩⟩
  cases d <;> rfl

theorem State.finish_env (s : State) : s.finish.env = s.env := by
  rcases s.finish_cases with h | ⟨-, h⟩ <;> simp [h]

theorem State.RunsAt.due (h : o.RunsAt s d i u ms) (hbusy : (s.ctx d.host).status ≠ .idle) :
    s.due (.context d.host) = some u := by
  rcases h.goesOn with ⟨hready, hu⟩ | ⟨hwaits, -⟩ | ⟨hidle, -, -⟩
  · simp only [State.ctx, Side.host] at hready
    simp [State.due, Inst.contextDue, Side.host, h.alone.notMasked, hready, hu]
  · exact h.alone.due_of_waiting hwaits
  · exact absurd hidle hbusy

theorem Context.GoesOn.le {x : Context} {now : Nat} (h : x.GoesOn now u) : now ≤ u := by
  rcases h with ⟨-, hu⟩ | ⟨-, hu⟩ | ⟨-, -, hu⟩ <;> omega

theorem Context.GoesOn.eq_now {x : Context} {now : Nat} (h : x.GoesOn now u)
    (hx : x.status = .ready ∨ x.status = .idle) : u = now := by
  rcases h with ⟨-, hu⟩ | ⟨hwaits, -⟩ | ⟨-, -, hu⟩
  · exact hu
  · rcases hwaits with hw | hw <;> simp [hw] at hx
  · exact hu

theorem Context.GoesOn.busy {x : Context} {now : Nat} (h : x.GoesOn now u) (hcode : x.code ≠ []) :
    x.status ≠ .idle := by
  rcases h with ⟨hx, -⟩ | ⟨hx | hx, -⟩ | ⟨-, hnil, -⟩
  · simp [hx]
  · simp [hx]
  · simp [hx]
  · exact absurd hnil hcode

theorem Context.GoesOn.advance {x : Context} {now : Nat} (h : x.GoesOn now u) : x.GoesOn u u := by
  rcases h with ⟨hx, -⟩ | ⟨hx, -⟩ | ⟨hx, hcode, -⟩
  · exact .ready hx rfl
  · exact .waiting hx le_rfl
  · exact .ended hx hcode rfl

theorem State.RunsAt.advance (h : o.RunsAt s d i u ms) : o.RunsAt (s.advanceTo u) d i u ms where
  toRunsAlone := h.toRunsAlone.advanceTo u
  code := by simp [h.code]
  goesOn := by
    rw [State.advanceTo_ctx]
    exact h.goesOn.advance

/-- A context that has not ended comes to its instant and takes its step. -/
theorem State.RunsAt.reaches (h : o.RunsAt s d i u ms) (hbusy : (s.ctx d.host).status ≠ .idle)
    (hrun : runContext d.host (s.advanceTo u) = .next t) : Reaches s t := by
  have hbusy' : ((s.advanceTo u).ctx d.host).status ≠ .idle := by simpa using hbusy
  have hstep := h.advance.alone.step_of_due (h.advance.due hbusy') hbusy' le_rfl
  refine h.alone.reaches_of_due (h.due hbusy) ?_
  rw [max_eq_right h.goesOn.le]
  exact .head (hstep.trans hrun) (.refl _)

theorem State.RunsAt.turnAt (h : o.RunsAt s d i u rest) (ms : List Micro) : o.RunsAlone (s.turnAt d u ms) d i :=
  (h.toRunsAlone.advanceTo u).turn _

/-- A sequence that is over: its context is idle (R260). -/
theorem State.RunsAt.finish (h : o.RunsAt s d i u ms) : o.RunsAt s.finish d i u ms := by
  by_cases hover : (s.ctx s.cur).status = .ready ∧ (s.ctx s.cur).code = []
  · rw [State.finish, if_pos hover, State.setStatus, State.setCtx_cur_eq_turn, h.cur]
    rw [h.cur] at hover
    obtain ⟨hready, hnil⟩ := hover
    have hnow := h.goesOn.eq_now (.inl hready)
    exact ⟨h.turn _, by simp [h.code], .ended (by simp) (by simp [hnil]) (by rw [State.turn_now, hnow])⟩
  · rw [State.finish, if_neg hover]
    exact h

/-- One step of the run: what it does to its controller's fields and to its context is what the run goes on with. -/
theorem State.RunsAt.take (h : o.RunsAt s d i u (m :: rest)) (hm : m ≠ .armTarget ∧ m ≠ .handlerReturn)
    (hrun : Sys2Proof.Machine.runMicro m (s.turnAt d u rest) = .next t) (hself : SameButControl j t.self)
    (hcode : (t.ctx d.host).code = ms) (hgoes : (t.ctx d.host).GoesOn u w) :
    Reaches s t.finish ∧ o.RunsAt t.finish d j w ms := by
  have hbusy := h.goesOn.busy (by simp [h.code])
  have hnow : t.now = u := (runMicro_now hrun).trans (by simp)
  refine ⟨h.reaches hbusy ?_, State.RunsAt.finish ⟨(h.turnAt rest).runMicro hrun hm hself, hcode, hnow ▸ hgoes⟩⟩
  rw [runContext_cons (by simpa using h.code)]
  exact congrArg (andThen · State.finish) hrun

/-- A run with nothing left to do ends, its context idle, at its instant. -/
theorem State.RunsAt.reaches_end (h : o.RunsAt s d i u []) :
    ∃ t, Reaches s t ∧ o.RunsAlone t d i ∧ t.now = u ∧ (t.ctx d.host).status = .idle ∧ (t.ctx d.host).code = [] := by
  by_cases hbusy : (s.ctx d.host).status = .idle
  · exact ⟨s, .refl s, h.toRunsAlone, (h.goesOn.eq_now (.inr hbusy)).symm, hbusy, h.code⟩
  · have hrun := runContext_nil (s := s.advanceTo u) (c := d.host) (by simpa using h.code)
    exact ⟨_, h.reaches hbusy hrun, (h.toRunsAlone.advanceTo u).turn _, State.turn_now _ _ _, by simp,
      by simp [h.code]⟩

/-- An operation completes where its run comes to have nothing left to do. -/
theorem State.RunsAt.completes {post : State → Prop} (hissue : o.Issuing d) (hexec : exec op o = .next s)
    (hreach : Reaches s t) (h : o.RunsAt t d i u []) (hpost : ∀ x, o.RunsAlone x d i → x.now = u → post x) :
    Completes op o post := by
  obtain ⟨x, hend, halone, hnow, hidle, hdone⟩ := h.reaches_end
  exact ⟨s, x, hexec, hreach.trans hend, hissue.cur_eq ▸ hidle, hissue.cur_eq ▸ hdone, hpost x halone hnow⟩

end

/-! ### One rule per zero-time step -/

section
variable {o s t : State} {d : Side} {i j : Inst} {m : Micro} {ms rest : List Micro} {u v : Nat} {a : Byte} {op : Instr}

theorem State.ctx_writePort (s : State) (dir : Dir) (olat : Bool) :
    (s.writePort dir olat).ctx s.cur = s.ctx s.cur := by
  have h := s.writePort_spec dir olat
  have hself : (s.writePort dir olat).inst s.cur.side = (s.writePort dir olat).self := by
    rw [State.self, h.globals.cur_eq]
  refine (congrArg (Inst.ctx · s.cur.kind) hself).trans ((h.self.ctx_eq _).trans ?_)
  cases hkind : s.cur.kind <;> simp [State.ctx, State.self, Inst.ctx, hkind]

/-- Where no detector is enabled a port write takes no draw. -/
theorem State.writePort_env (dir : Dir) (olat : Bool) (h : ∀ e, (s.inst e).edgeEn = false) :
    (s.writePort dir olat).env = s.env := by
  have hspec := State.detectBoth_spec (s.portMid dir olat) s.line
    (s.setSelf { s.self with dir := dir, olat := olat }).line
  rw [← State.writePort_eq] at hspec
  have hoff (e : Side) : ((s.portMid dir olat).inst e).edgeEn = false := by
    have hkept := (s.writePort_spec dir olat).edgeEn_eq e
    rw [hspec.inst e] at hkept
    exact hkept.trans (h e)
  rw [hspec.quiet hoff, State.portMid]
  split <;> simp

theorem State.turnAt_edgeEn (s : State) (d : Side) (u : Nat) (ms : List Micro) (e : Side) :
    ((s.turnAt d u ms).inst e).edgeEn = (s.inst e).edgeEn := by cases d <;> cases e <;> rfl

theorem SameButControl.writePort (h : SameButControl i s.self) (dir : Dir) (olat : Bool) :
    SameButControl { i with dir := dir, olat := olat } (s.writePort dir olat).self :=
  (h.setPort dir olat).trans ((Effect.refl True s).writePort dir olat).self

/-- A step that writes the port (R233 to R236). -/
theorem State.RunsAt.port (h : o.RunsAt s d i u (.op op :: rest)) (dir : Dir) (olat : Bool)
    (hexec : ∀ r, SameButControl i r.self → exec op r = .next (r.writePort dir olat)) :
    ∃ t, Reaches s t ∧ o.RunsAt t d { i with dir := dir, olat := olat } u rest ∧
      ((∀ e, (s.inst e).edgeEn = false) → t.env = s.env) := by
  have hself := (h.turnAt rest).self
  have hctx := (s.turnAt d u rest).ctx_writePort dir olat
  rw [State.turnAt_cur, State.turnAt_ctx] at hctx
  obtain ⟨hreach, hnext⟩ := h.take ⟨nofun, nofun⟩ (hexec _ hself) (hself.writePort dir olat)
    (congrArg Context.code hctx) (.ready (congrArg Context.status hctx) rfl)
  refine ⟨_, hreach, hnext, fun hoff => ?_⟩
  rw [State.finish_env, State.writePort_env, State.turnAt_env]
  exact fun e => (s.turnAt_edgeEn d u rest e).trans (hoff e)

theorem State.RunsAt.drive {b : Bool} (h : o.RunsAt s d i u (driveOp b :: rest)) :
    ∃ t, Reaches s t ∧ o.RunsAt t d { i with olat := b } u rest := by
  obtain ⟨t, hreach, hnext, -⟩ := h.port i.dir b fun r hr => by
    cases b <;> simp [exec, execDrvh, execDrvl, State.writeOlat, hr.dir_eq]
  exact ⟨t, hreach, hnext⟩

theorem State.RunsAt.setDir (h : o.RunsAt s d i u (.op op :: rest)) (dir : Dir)
    (hexec : ∀ r, exec op r = .next (r.writeDir dir)) :
    ∃ t, Reaches s t ∧ o.RunsAt t d { i with dir := dir } u rest ∧
      ((∀ e, (s.inst e).edgeEn = false) → t.env = s.env) :=
  h.port dir i.olat fun r hr => by rw [hexec, State.writeDir, hr.olat_eq]

/-- A step that writes fields of its controller and nothing else. -/
theorem State.RunsAt.write {k : Inst} (h : o.RunsAt s d i u (m :: rest)) (hm : m ≠ .armTarget ∧ m ≠ .handlerReturn)
    (hrun : runMicro m (s.turnAt d u rest) = .next ((s.turnAt d u rest).setSelf k)) (hself : SameButControl j k)
    (hctx : k.ordinary = (s.turnAt d u rest).self.ordinary) :
    ∃ t, Reaches s t ∧ o.RunsAt t d j u rest ∧ t.env = s.env := by
  have hkept : ((s.turnAt d u rest).setSelf k).ctx d.host = { s.ctx d.host with status := .ready, code := rest } := by
    rw [← State.turnAt_ctx]
    exact (congrArg Inst.ordinary (State.setSelf_inst _ _)).trans hctx
  obtain ⟨hreach, hnext⟩ := h.take hm hrun (by simpa using hself) (congrArg Context.code hkept)
    (.ready (congrArg Context.status hkept) rfl)
  exact ⟨_, hreach, hnext, by simp [State.finish_env]⟩

/-- RDBYTE clears ACC before its first bit (R323). -/
theorem State.RunsAt.accClear (h : o.RunsAt s d i u (.accClear :: rest)) :
    ∃ t, Reaches s t ∧ o.RunsAt t d { i with acc := some 0 } u rest ∧ t.env = s.env :=
  h.write ⟨nofun, nofun⟩ rfl ((h.turnAt rest).self.setAcc _) rfl

/-- RDBYTE leaves what it read in RES (R323). -/
theorem State.RunsAt.accToRes (h : o.RunsAt s d i u (.accToRes :: rest)) (hacc : i.acc = some a) :
    ∃ t, Reaches s t ∧ o.RunsAt t d { i with res := some a } u rest ∧ t.env = s.env := by
  have hself := (h.turnAt rest).self
  exact h.write ⟨nofun, nofun⟩ (by simp [runMicro, hself.acc_eq, hacc]) (hself.setRes _) rfl

/-- A composite that is a step of a sequence puts its expansion before the rest of it (R187). -/
theorem State.RunsAt.expand (h : o.RunsAt s d i u (.op op :: rest)) (hexec : ∀ r, exec op r = .next (r.load ms)) :
    ∃ t, Reaches s t ∧ o.RunsAt t d i u (ms ++ rest) := by
  have hself := (h.turnAt rest).self
  have hctx := (s.turnAt d u rest).ctx_load ms
  rw [State.turnAt_cur, State.turnAt_ctx] at hctx
  obtain ⟨hreach, hnext⟩ := h.take ⟨nofun, nofun⟩ (hexec _) (hself.load ms)
    (congrArg Context.code hctx) (.ready (congrArg Context.status hctx) rfl)
  exact ⟨_, hreach, hnext⟩

/-- DELAY: the sequence goes on after the parameter's time and one draw (R262). -/
theorem State.RunsAt.delay {sel : BitVec 4} (h : o.RunsAt s d i u (.op (.delay sel) :: rest))
    (hparam : param o.params sel = some v) :
    ∃ t, Reaches s t ∧ o.RunsAt t d i (u + v + drawUpTo o.params.jDelay s.drawn) rest ∧ t.now = u ∧
      (t.ctx d.host).status = .sleeping (u + v + drawUpTo o.params.jDelay s.drawn) ∧ t.env = s.afterDraw.env := by
  have hself := (h.turnAt rest).self
  have hparams : (s.turnAt d u rest).params = o.params := (h.turnAt rest).params
  have hdrawn : (s.turnAt d u rest).drawn = s.drawn := by simp [State.drawn]
  have hsleep := (s.turnAt d u rest).sleep_eq v
  rw [State.turnAt_cur, State.turnAt_ctx, State.turnAt_now, hparams, hdrawn] at hsleep
  have hctx : ((s.turnAt d u rest).sleep v).ctx d.host =
      { s.ctx d.host with status := .sleeping (u + v + drawUpTo o.params.jDelay s.drawn), code := rest } := by
    simp [hsleep]
  have hfinish : ((s.turnAt d u rest).sleep v).finish = (s.turnAt d u rest).sleep v :=
    State.finish_of_not_ready (by simp [hsleep])
  obtain ⟨hreach, hnext⟩ := h.take ⟨nofun, nofun⟩ (exec_delay (hparams.symm ▸ hparam))
    (hself.trans (Effect.sleep True _ v).self) (congrArg Context.code hctx)
    (.waiting (.inl (congrArg Context.status hctx)) (by omega))
  rw [hfinish] at hreach hnext
  exact ⟨_, hreach, hnext, by simp [hsleep], congrArg Context.status hctx, by simp [hsleep, State.afterDraw]⟩

/-- The state once a sample is shifted into ACC, which held `a` (R321). -/
def State.shiftSample (s : State) (a : Byte) : State :=
  s.afterSample.setSelf { s.self with acc := some (shiftIn a s.sample) }

theorem exec_rdbit (hacc : s.self.acc = some a) : exec .rdbit s = .next ((s.shiftSample a).load [delayRxBit]) := by
  simp [exec, execRdbit, hacc, State.shiftSample]

theorem State.shiftSample_load (s : State) (a : Byte) (ms : List Micro) : (s.shiftSample a).load ms =
    (s.shiftSample a).setCtx s.cur { s.ctx s.cur with status := .ready, code := ms ++ (s.ctx s.cur).code } :=
  s.sampled_load (by cases s.cur.kind <;> rfl) ms

theorem State.self_shiftSample (s : State) (a : Byte) :
    (s.shiftSample a).self = { s.self with acc := some (shiftIn a s.sample) } := State.self_setSelf _ _

/-- RDBIT's first step shifts the sample into ACC and leaves its delay to do (R321). -/
theorem State.RunsAlone.rdbit (h : o.RunsAlone s d i) (hacc : i.acc = some a) :
    ∃ t, exec .rdbit s = .next t ∧ SameButControl { i with acc := some (shiftIn a s.sample) } t.self ∧
      t.ctx d.host = { s.ctx d.host with status := .ready, code := delayRxBit :: (s.ctx d.host).code } ∧
      t.env = s.afterSample.env := by
  refine ⟨_, exec_rdbit (h.self.acc_eq.trans hacc), SameButControl.load ?_ _, ?_, by simp [State.shiftSample]⟩
  · rw [s.self_shiftSample]
    exact h.self.setAcc _
  · rw [s.shiftSample_load, h.cur]
    simp

/-- A sample is of the line, the noise model and the next draw. -/
theorem State.sample_congr (hline : t.line = s.line) (hparams : t.params = s.params) (henv : t.env = s.env) :
    t.sample = s.sample ∧ t.afterSample.env = s.afterSample.env := by
  have hdraws : t.sampleDraws = s.sampleDraws := by simp [State.sampleDraws, hline, hparams]
  simp only [State.sample, State.afterSample, State.drawn, hdraws, hline, henv]
  cases s.sampleDraws <;> simp [State.afterDraw, henv]

/-- RDBIT: the sample of the state goes into ACC, and the sequence goes on after `T_RXBIT` and one draw (R321). -/
theorem State.RunsAt.rdbit (h : o.RunsAt s d i u (.op .rdbit :: rest)) (hacc : i.acc = some a) :
    ∃ t, Reaches s t ∧
      o.RunsAt t d { i with acc := some (shiftIn a s.sample) }
        (u + o.params.tRxBit + drawUpTo o.params.jDelay s.afterSample.drawn) rest ∧
      t.env = s.afterSample.afterDraw.env := by
  obtain ⟨hsample, hafter⟩ := State.sample_congr (s.turnAt_line d u rest) (s.turnAt_params d u rest)
    (s.turnAt_env d u rest)
  obtain ⟨x, hexec, hself, hctx, henv⟩ := (h.turnAt rest).rdbit hacc
  rw [hsample] at hself
  rw [State.turnAt_ctx] at hctx
  obtain ⟨hreach, hnext⟩ := h.take ⟨nofun, nofun⟩ hexec hself (congrArg Context.code hctx)
    (.ready (congrArg Context.status hctx) rfl)
  obtain ⟨t, hreach', hnext', -, -, henv'⟩ := hnext.delay (v := o.params.tRxBit) rfl
  have hx : x.finish.env = s.afterSample.env := by rw [State.finish_env, henv, hafter]
  have hdrawn : x.finish.drawn = s.afterSample.drawn := by simp [State.drawn, hx]
  exact ⟨t, hreach.trans hreach', hdrawn ▸ hnext', by rw [henv']; simp [State.afterDraw, hx]⟩

end

/-! ### The composites -/

section
variable {o s t : State} {d : Side} {i : Inst} {rest : List Micro} {u : Nat} {a : Byte} {b : Bool} {op : Instr}

/-- An operation that `o` issues alone, and that leaves the steps `ms` to take, is at the first of them. -/
theorem State.RunsAt.issued {ms : List Micro} (halone : o.Alone d) (hissue : o.Issuing d)
    (hexec : exec op o = .next s) (hself : SameButControl i s.self)
    (hctx : s.ctx d.host = { o.ctx d.host with status := .ready, code := ms ++ (o.ctx d.host).code }) :
    o.RunsAt s d i o.now ms := by
  have hrun : runMicro (.op op) o = .next s := hexec
  refine ⟨(State.RunsAlone.start halone hissue).runMicro hrun ⟨nofun, nofun⟩ hself, ?_, ?_⟩
  · rw [hctx, hissue.code_eq]
    exact List.append_nil ms
  · exact .ready (congrArg Context.status hctx) (runMicro_now hrun).symm

/-- A composite that `o` issues alone is at its expansion's first step (R187). -/
theorem State.RunsAt.start {ms : List Micro} (halone : o.Alone d) (hissue : o.Issuing d)
    (hexec : exec op o = .next (o.load ms)) : o.RunsAt (o.load ms) d o.self o.now ms :=
  .issued halone hissue hexec ((SameButControl.refl _).load ms) (hissue.cur_eq ▸ o.ctx_load ms)

/-- WRBIT's expansion puts the bit in the latch and takes `T_BIT` and two draws (R320). -/
theorem State.RunsAt.wrbit (h : o.RunsAt s d i u (wrbitCode b ++ rest)) :
    ∃ t w, Reaches s t ∧ o.RunsAt t d { i with olat := b } w rest ∧
      u + o.params.tBit ≤ w ∧ w ≤ u + o.params.tBit + 2 * o.params.jDelay := by
  obtain ⟨x, hx, hdriven⟩ := h.drive
  obtain ⟨y, hy, hcell, -⟩ := hdriven.delay (v := o.params.tCell) rfl
  obtain ⟨t, ht, hfudge, -⟩ := hcell.delay (v := o.params.tFudge) rfl
  have hdraw := drawUpTo_le o.params.jDelay
  refine ⟨t, _, (hx.trans hy).trans ht, hfudge, ?_⟩
  have hbit : o.params.tBit = o.params.tCell + o.params.tFudge := rfl
  have := hdraw x.drawn
  have := hdraw y.drawn
  omega

/-- WRBITs one after the other leave the last bit in the latch, each after `T_BIT` and two draws. -/
theorem State.RunsAt.wrbits {bits : List Bool} (h : o.RunsAt s d i u (bits.map (.op <| .wrbit ·) ++ rest)) :
    ∃ t w, Reaches s t ∧ o.RunsAt t d { i with olat := bits.getLastD i.olat } w rest ∧
      u + bits.length * o.params.tBit ≤ w ∧ w ≤ u + bits.length * (o.params.tBit + 2 * o.params.jDelay) := by
  induction bits generalizing s i u with
  | nil => exact ⟨s, u, .refl s, h, by simp, by simp⟩
  | cons b bits ih =>
    obtain ⟨x, hx, hcode⟩ := h.expand (ms := wrbitCode b) fun _ => rfl
    obtain ⟨y, w, hy, hbit, hlow, hhigh⟩ := hcode.wrbit
    obtain ⟨t, w', ht, hbits, hlow', hhigh'⟩ := ih hbit
    rw [← List.getLastD_cons (a := i.olat)] at hbits
    refine ⟨t, w', (hx.trans hy).trans ht, hbits, ?_⟩
    simp only [List.length_cons, Nat.succ_mul bits.length]
    omega

/-- WRBYTE's expansion up to the first cell: the first bit is on the line it drives (R322). -/
theorem State.RunsAt.wrbyteHead {v : Byte} (halone : o.Alone d) (hissue : o.Issuing d) :
    ∃ t, Reaches (o.load (wrbyteCode v)) t ∧
      o.RunsAt t d { o.self with olat := v.getLsbD 7, dir := .output } o.now
        ((bitsMsbFirst v).map (.op <| .wrbit ·)) := by
  obtain ⟨x, hx, hdriven⟩ := (State.RunsAt.start (op := .wrbyte v) halone hissue rfl).drive
  obtain ⟨t, ht, hout, -⟩ := hdriven.setDir .output fun _ => rfl
  exact ⟨t, hx.trans ht, hout⟩

/-! ### Reading bits -/

/-- `bits` are the samples of the RDBITs to come, whatever else the state becomes meanwhile: each sample takes what it
draws, and so does the delay after it (R237, R321). -/
def State.Feeds : List Bool → State → Prop
  | [], _ => True
  | b :: bits, s => s.sample = b ∧ ∀ t : State, t.line = s.line → t.params = s.params →
      t.env = s.afterSample.afterDraw.env → State.Feeds bits t

/-- A steady line without noise feeds its level (R237). -/
theorem State.feeds_level (n : Nat) (hnoise : s.params.noise = .none) (hline : s.line ≠ .contended) :
    State.Feeds (List.replicate n (decide (s.line = .high))) s := by
  induction n generalizing s with
  | zero => trivial
  | succ n ih =>
    refine ⟨(State.sample_level hnoise hline).1, fun t hline' hparams _ => ?_⟩
    rw [← hline']
    exact ih (hparams ▸ hnoise) (hline' ▸ hline)

/-- Under noise the tape feeds every other draw (R268; log entry 5). -/
theorem State.feeds_tape {draws : List (Bool × Nat)} {more : List Nat} (hnoise : s.params.noise = .arbitrary)
    (htape : s.env.tape = draws.flatMap (fun x => [x.1.toNat, x.2]) ++ more) :
    State.Feeds (draws.map Prod.fst) s := by
  induction draws generalizing s with
  | nil => trivial
  | cons x draws ih =>
    have hsamples : s.sampleDraws = true := by simp [State.sampleDraws, hnoise]
    have hbit : drawBit x.1.toNat = x.1 := by cases x.1 <;> rfl
    refine ⟨by simpa [State.sample, hsamples, State.drawn, htape] using hbit, fun t _ hparams henv => ?_⟩
    exact ih (hparams ▸ hnoise) (by simp [henv, State.afterSample, hsamples, State.afterDraw, htape])

/-- RDBITs one after the other shift what they are fed into ACC, each after `T_RXBIT` and one draw (R321). -/
theorem State.RunsAt.rdbits {bits : List Bool}
    (h : o.RunsAt s d i u (List.replicate bits.length (.op .rdbit) ++ rest)) (hacc : i.acc = some a)
    (hfeeds : State.Feeds bits s) :
    ∃ t w, Reaches s t ∧ o.RunsAt t d { i with acc := some (bits.foldl shiftIn a) } w rest ∧
      u + bits.length * o.params.tRxBit ≤ w ∧ w ≤ u + bits.length * (o.params.tRxBit + o.params.jDelay) := by
  induction bits generalizing s i u a with
  | nil => exact ⟨s, u, .refl s, by simpa [← hacc] using h, by simp, by simp⟩
  | cons b bits ih =>
    obtain ⟨hsample, hrest⟩ := hfeeds
    obtain ⟨x, hx, hbit, henv⟩ := h.rdbit hacc
    have hline : x.line = s.line := State.line_congr fun _ => by
      rw [hbit.driven_iff, h.driven_iff]
      rfl
    obtain ⟨t, w, ht, hbits, hlow, hhigh⟩ :=
      ih hbit rfl (hrest x hline (hbit.params.trans h.params.symm) henv)
    rw [hsample] at hbits
    refine ⟨t, w, hx.trans ht, hbits, ?_⟩
    have := drawUpTo_le o.params.jDelay s.afterSample.drawn
    simp only [List.length_cons, Nat.succ_mul bits.length]
    omega

/-- Shifting bits in is reading them as a number, modulo 256 (R324). -/
theorem foldl_shiftIn (bits : List Bool) (n : Nat) :
    bits.foldl shiftIn (BitVec.ofNat 8 n) = BitVec.ofNat 8 (bits.foldl (fun n b => 2 * n + b.toNat) n) := by
  induction bits generalizing n with
  | nil => rfl
  | cons b bits ih =>
    have hshift : shiftIn (BitVec.ofNat 8 n) b = BitVec.ofNat 8 (2 * n + b.toNat) := by
      rw [shiftIn_eq]
      apply BitVec.eq_of_toNat_eq
      simp only [BitVec.toNat_ofNat]
      omega
    rw [List.foldl_cons, hshift, ih, List.foldl_cons]

end

section
variable {o s : State} {d : Side} {i : Inst} {b : Bool}

theorem State.RunsAlone.edgeEn_eq (h : o.RunsAlone s d i) (hi : i.edgeEn = (o.inst d).edgeEn) (e : Side) :
    (s.inst e).edgeEn = (o.inst e).edgeEn := by
  by_cases he : e = d
  · subst he
    rw [← State.self_of_cur h.cur, h.self]
    exact hi
  · rw [Side.eq_other_of_ne he, h.partner]

/-- RDBYTE reads as an input, so what it is fed comes from the line as the partner holds it (R323). -/
theorem State.RunsAt.rdbyte {bits : List Bool} (halone : o.Alone d) (hissue : o.Issuing d) (hlength : bits.length = 8)
    (hfeeds : ∀ x, o.RunsAlone x d { o.self with dir := .input, acc := some 0 } →
      ((∀ e, (o.inst e).edgeEn = false) → x.env = o.env) → State.Feeds bits x) :
    ∃ t w, Reaches (o.load rdbyteCode) t ∧
      o.RunsAt t d { o.self with
        dir := .input, acc := some (bits.foldl shiftIn 0), res := some (bits.foldl shiftIn 0) } w [] ∧
      o.now + 8 * o.params.tRxBit ≤ w ∧ w ≤ o.now + 8 * (o.params.tRxBit + o.params.jDelay) := by
  have hstart := State.RunsAt.start (op := .rdbyte) halone hissue rfl
  obtain ⟨x, hx, hin, henv⟩ := hstart.setDir .input fun _ => rfl
  obtain ⟨y, hy, hclear, henv'⟩ := hin.accClear
  have hedges := hstart.edgeEn_eq (congrArg Inst.edgeEn (State.self_of_cur hissue.cur_eq))
  have hquiet (hoff : ∀ e, (o.inst e).edgeEn = false) : y.env = o.env := by
    rw [henv', henv fun e => (hedges e).trans (hoff e), State.load_env]
  have hbits : o.RunsAt y d { o.self with dir := .input, acc := some 0 } o.now
      (List.replicate bits.length (.op .rdbit) ++ [.accToRes]) := by
    rw [hlength]
    exact hclear
  obtain ⟨z, w, hz, hread, hlow, hhigh⟩ := hbits.rdbits rfl (hfeeds y hbits.toRunsAlone hquiet)
  rw [hlength] at hlow hhigh
  obtain ⟨t, ht, hres, -⟩ := hread.accToRes rfl
  exact ⟨t, w, ((hx.trans hy).trans hz).trans ht, hres, hlow, hhigh⟩

/-- The line that an input sees: the partner's level, else high (R232). -/
theorem State.RunsAlone.line_of_input (h : o.RunsAlone s d i) (hdir : i.dir = .input) :
    s.line ≠ .contended ∧
      (s.line = .high ↔ ¬ ((o.inst d.other).dir = .output ∧ (o.inst d.other).olat = false)) := by
  have hinput (b : Bool) : s.Driven b ↔ (o.inst d.other).Drives b := by simp [h.driven_iff, Inst.Drives, hdir]
  rw [ne_eq, State.line_eq_contended_iff, State.line_eq_high_iff, hinput, hinput]
  refine ⟨?_, Iff.rfl⟩
  rintro ⟨⟨-, hlow⟩, -, hhigh⟩
  simp [hlow] at hhigh

/-- The line of an output whose partner is an input: the latch's level (R239). -/
theorem State.RunsAlone.line_of_output (h : o.RunsAlone s d i) (hdir : i.dir = .output)
    (hpartner : (o.inst d.other).dir = .input) : s.line ≠ .contended ∧ (s.line = .high ↔ i.olat = true) := by
  have hown (b : Bool) : s.Driven b ↔ i.olat = b := by simp [h.driven_iff, Inst.Drives, hdir, hpartner]
  rw [ne_eq, State.line_eq_contended_iff, State.line_eq_high_iff, hown, hown]
  cases i.olat <;> simp

end

theorem State.setSelf_setCtx (s : State) (i : Inst) (x : Context) :
    (s.setSelf i).setCtx s.cur x = s.setSelf (i.setCtx s.cur.kind x) := by simp [State.setCtx, State.setSelf]

/-- Bit `7 - k` is the one with index `k` of the bits, MSB first (R126). -/
theorem bitsMsbFirst_eq (v : Byte) {k : Nat} (hk : k < 8) : ∃ sent left,
    bitsMsbFirst v = sent ++ v.getLsbD (7 - k) :: left ∧ sent.length = k := by
  refine ⟨(bitsMsbFirst v).take k, (bitsMsbFirst v).drop (k + 1), ?_, ?_⟩
  · interval_cases k <;> rfl
  · simpa [bitsMsbFirst] using hk.le

/-! ### The obligations -/

/-- Settles O20: RDBIT's first step is the sample shifted in, with its delay loaded. -/
theorem rdbitEffect : Obligations.RdbitEffect := by
  intro s a hacc
  have hshifted : ((s.shiftSample a).load [delayRxBit]).self.acc =
      some (BitVec.ofNat 8 (2 * a.toNat + s.sample.toNat)) := by
    simp [s.self_shiftSample, shiftIn_eq]
  refine ⟨_, s.sample, exec_rdbit hacc, fun hline hnoise => ?_, hshifted, ?_⟩
  · rw [(State.sample_level hnoise hline).1, decide_eq_true_iff]
  · rw [hshifted, ← shiftIn_eq, s.shiftSample_load, State.shiftSample]
    rcases s.afterSample_cases with hsame | hdraw
    · rw [hsame, State.setSelf_setCtx]
      rfl
    · rw [hdraw, State.setSelf_afterDraw, State.setCtx_afterDraw, State.setSelf_setCtx]
      rfl

/-- Settles O21: the latch is written, and the two delays of the cell follow. -/
theorem wrbitCompletes : Obligations.WrbitCompletes := by
  intro s d b halone hissue
  have hstart := State.RunsAt.start (op := .wrbit b) halone hissue rfl
  rw [← List.append_nil (wrbitCode b)] at hstart
  obtain ⟨t, w, hreach, hend, hlow, hhigh⟩ := hstart.wrbit
  rw [List.append_nil] at hreach
  refine hend.completes hissue rfl hreach fun x hx hnow => ?_
  exact ⟨hx.self.dir_eq, hx.self.olat_eq, hnow ▸ hlow, hnow ▸ hhigh⟩

/-- Settles O22: the first step samples the line, and the delay follows. -/
theorem rdbitCompletes : Obligations.RdbitCompletes := by
  intro s d a halone hissue hacc hnoise hline
  obtain ⟨x, hexec, hself, hctx, -⟩ := (State.RunsAlone.start halone hissue).rdbit hacc
  rw [(State.sample_level hnoise hline).1] at hself
  have hat := State.RunsAt.issued (ms := [delayRxBit]) halone hissue hexec hself hctx
  obtain ⟨t, hreach, hend, -⟩ := hat.delay (v := s.params.tRxBit) rfl
  refine hend.completes hissue hexec hreach fun y hy hnow => ⟨?_, ?_⟩
  · rw [hy.self.acc_eq, shiftIn_eq]
    by_cases hhigh : s.line = .high <;> simp [hhigh]
  · have := drawUpTo_le s.params.jDelay x.drawn
    omega

/-- Settles O23: the last of the eight bits stays in the latch. -/
theorem wrbyteCompletes : Obligations.WrbyteCompletes := by
  intro s d v halone hissue
  obtain ⟨x, hx, hhead⟩ := State.RunsAt.wrbyteHead (v := v) halone hissue
  rw [← List.append_nil (List.map _ _)] at hhead
  obtain ⟨t, w, ht, hend, hlow, hhigh⟩ := hhead.wrbits
  simp only [bitsMsbFirst, List.length_cons, List.length_nil] at hlow hhigh
  refine hend.completes hissue rfl (hx.trans ht) fun y hy hnow => ?_
  exact ⟨hy.self.dir_eq, hy.self.olat_eq, by omega, by omega⟩

/-- Settles O24: without jitter the `k` bits before take `k` times `T_BIT`, and the two delays of the cell leave the
port as its bit made it. -/
theorem wrbyteWaveform : Obligations.WrbyteWaveform := by
  intro s d v k halone hissue hpartner hjitter hk
  obtain ⟨sent, left, hbits, hlength⟩ := bitsMsbFirst_eq v hk
  obtain ⟨x, hx, hhead⟩ := State.RunsAt.wrbyteHead (v := v) halone hissue
  rw [hbits, List.map_append] at hhead
  obtain ⟨y, w, hy, hsent, hlow, hhigh⟩ := hhead.wrbits
  obtain ⟨z, hz, hcode⟩ := hsent.expand (ms := wrbitCode _) fun _ => rfl
  obtain ⟨z', hz', hdriven⟩ := State.RunsAt.drive hcode
  obtain ⟨t, ht, hcell, hnow, hstatus, -⟩ := hdriven.delay (v := s.params.tCell) rfl
  obtain ⟨u, hu, hfudge, hnow', hstatus', -⟩ := hcell.delay (v := s.params.tFudge) rfl
  obtain ⟨hline, hlevel⟩ := hcell.line_of_output rfl hpartner
  have hstart : w = s.now + k * s.params.tBit := by
    simp only [hlength, hjitter, Nat.mul_zero, Nat.add_zero] at hlow hhigh
    omega
  simp only [hjitter, drawUpTo_zero, Nat.add_zero] at hstatus hstatus' hnow'
  rw [hissue.cur_eq]
  refine ⟨_, t, u, rfl, (((hx.trans hy).trans hz).trans hz').trans ht, hu, hnow.trans hstart, hnow ▸ hstatus,
    hlevel, hline, hnow ▸ hnow', hnow' ▸ hstatus', ?_⟩
  exact State.line_congr fun b => hfudge.driven_iff.trans hcell.driven_iff.symm

/-- Settles O25: the tape feeds the samples, and shifting them in reads them as a number. -/
theorem deserializerValue : Obligations.DeserializerValue := by
  intro s d b0 b1 b2 b3 b4 b5 b6 b7 j0 j1 j2 j3 j4 j5 j6 j7 more halone hissue hnoise hI hT htape
  have hoff : ∀ e, (s.inst e).edgeEn = false := fun
    | .I => hI
    | .T => hT
  obtain ⟨t, w, hreach, hend, -⟩ := State.RunsAt.rdbyte (bits := [b0, b1, b2, b3, b4, b5, b6, b7]) halone hissue rfl
    fun x hx henv => State.feeds_tape (more := more)
      (draws := [(b0, j0), (b1, j1), (b2, j2), (b3, j3), (b4, j4), (b5, j5), (b6, j6), (b7, j7)])
      (hx.params ▸ hnoise) ((congrArg Env.tape (henv hoff)).trans htape)
  refine hend.completes hissue rfl hreach fun x hx _ => ⟨hx.self.res_eq.trans ?_,
    hx.self.acc_eq.trans hx.self.res_eq.symm, hx.self.dir_eq⟩
  have hvalue := foldl_shiftIn [b0, b1, b2, b3, b4, b5, b6, b7] 0
  refine congrArg some (hvalue.trans (congrArg _ ?_))
  simp only [List.foldl]
  ring

/-- Settles O26: eight equal samples are the byte 0xFF or 0x00. -/
theorem rdbyteCompletes : Obligations.RdbyteCompletes := by
  intro s d halone hissue hnoise
  obtain ⟨t, w, hreach, hend, hlow, hhigh⟩ := State.RunsAt.rdbyte
    (bits := List.replicate 8 (decide ¬ ((s.inst d.other).dir = .output ∧ (s.inst d.other).olat = false)))
    halone hissue rfl fun x hx _ => by
      obtain ⟨hline, hlevel⟩ := hx.line_of_input rfl
      rw [← decide_eq_decide.mpr hlevel]
      exact State.feeds_level 8 (hx.params ▸ hnoise) hline
  refine hend.completes hissue rfl hreach fun x hx hnow => ⟨hx.self.res_eq.trans ?_,
    hx.self.acc_eq.trans hx.self.res_eq.symm, hx.self.dir_eq, by omega, by omega⟩
  by_cases hheld : (s.inst d.other).dir = .output ∧ (s.inst d.other).olat = false <;> simp only [hheld] <;> decide

end Sys2Proof.Machine
end

section
/-! PROOFS of the obligations about synchronization (43_sync.md). SSYNC is a run of the framer's rules. RSYNC ends where
its WAITH polls the high line (`State.Alone.rsync_returns`). A partner that is still to release the line is no partner
that does nothing, so the run up to the release has an invariant of its own, `State.AwaitsRelease`: its next step is the
poll, the release, or an advance of time to the earlier of the two (`State.AwaitsRelease.step_cases`). -/

namespace Sys2Proof.Machine

/-! ### The end of RSYNC -/

section
variable {s : State} {d : Side} {m : Micro} {ms : List Micro} {u : Nat}

theorem State.finish_of_code_ne_nil (h : (s.ctx s.cur).code ≠ []) : s.finish = s := by simp [State.finish, h]

/-- A context with steps left is due at the instant at which it goes on. -/
theorem State.due_of_goesOn (hmask : (s.inst d).inIsr = false) (hgoes : (s.ctx d.host).GoesOn s.now u)
    (hcode : (s.ctx d.host).code ≠ []) : s.due (.context d.host) = some u := by
  simp only [State.ctx, Side.host] at hgoes hcode
  rcases hgoes with ⟨hx, hu⟩ | ⟨hx | hx, -⟩ | ⟨-, hnil, -⟩
  · simp [State.due, Inst.contextDue, Side.host, hmask, hx, hu]
  · simp [State.due, Inst.contextDue, Side.host, hmask, hx]
  · simp [State.due, Inst.contextDue, Side.host, hmask, hx]
  · exact absurd hnil hcode

/-- Until it goes on, a context keeps its instant as time advances. -/
theorem Context.GoesOn.mono {x : Context} {now n : Nat} (h : x.GoesOn now u) (hn : now ≤ n) (hu : n ≤ u) :
    x.GoesOn n u := by
  rcases h with ⟨hx, h⟩ | ⟨hx, -⟩ | ⟨hx, hcode, h⟩
  · exact .ready hx (by omega)
  · exact .waiting hx hu
  · exact .ended hx hcode (by omega)

/-- A poll of the high line ends WAITH: its context goes on at once (R264). -/
theorem runContext_waith_high (hline : s.line = .high) (hcode : (s.ctx d.host).code = .op .waith :: m :: ms) :
    runContext d.host s = .next (s.running d.host (m :: ms)) := by
  obtain ⟨hhigh, -⟩ := waithEffect
  have hrun : exec .waith (s.running d.host (m :: ms)) = .next (s.running d.host (m :: ms)) :=
    hhigh _ ((s.turn_line d.host _).trans hline)
  rw [runContext_cons hcode, runMicro, hrun, andThen, State.finish_of_code_ne_nil]
  exact (congrArg Context.code (s.turn_ctx d.host _)).symm ▸ List.cons_ne_nil m ms

/-- WAITH on a high line returns at the poll at `u`, where its controller runs alone. -/
theorem State.Alone.reaches_waith_high (h : s.Alone d) (hline : s.line = .high)
    (hcode : (s.ctx d.host).code = .op .waith :: m :: ms) (hgoes : (s.ctx d.host).GoesOn s.now u) :
    Reaches s (s.turnAt d u (m :: ms)) := by
  have hctx := s.advanceTo_ctx u d.host
  have hne : (s.ctx d.host).code ≠ [] := by simp [hcode]
  have hdue := State.due_of_goesOn (s := s.advanceTo u) (h.advanceTo u).notMasked (hctx ▸ hgoes.advance) (hctx ▸ hne)
  have hstep := (h.advanceTo u).step_of_due hdue (hctx ▸ hgoes.busy hne) le_rfl
  refine h.reaches_of_due (State.due_of_goesOn h.notMasked hgoes hne) ?_
  rw [max_eq_right hgoes.le]
  exact .head (hstep.trans (runContext_waith_high hline (hctx ▸ hcode))) (.refl _)

/-- The turn that `d`, alone, takes at `u` begins a run of its own, with `ms` left to do. -/
theorem State.Alone.runsAt_turnAt (h : s.Alone d) (u : Nat) (ms : List Micro) :
    (s.turnAt d u ms).RunsAt (s.turnAt d u ms) d (s.inst d) u ms where
  alone := (h.advanceTo u).turn _
  cur := rfl
  params := rfl
  self := by cases d <;> rfl
  partner := .refl _
  code := by simp
  goesOn := .ready (by simp) (by simp)

/-- RSYNC on a high line returns `T_HALF` and one draw after the poll at `u` (R291). -/
theorem State.Alone.rsync_returns (h : s.Alone d) (hline : s.line = .high)
    (hcode : (s.ctx d.host).code = [.op .waith, delayHalf]) (hgoes : (s.ctx d.host).GoesOn s.now u) :
    ∃ t, Reaches s t ∧ (t.ctx d.host).status = .idle ∧ (t.ctx d.host).code = [] ∧ t.self.dir = (s.inst d).dir ∧
      u + s.params.tHalf ≤ t.now ∧ t.now ≤ u + s.params.tHalf + s.params.jDelay := by
  have hpolled := h.reaches_waith_high hline hcode hgoes
  obtain ⟨x, hx, hdelay, -⟩ := (h.runsAt_turnAt u [delayHalf]).delay (v := s.params.tHalf)
    (congrArg (param · 3) (s.turnAt_params d u _))
  obtain ⟨t, ht, halone, hnow, hidle, hdone⟩ := hdelay.reaches_end
  have := drawUpTo_le s.params.jDelay (s.turnAt d u [delayHalf]).drawn
  rw [State.turnAt_params] at hnow
  exact ⟨t, (hpolled.trans hx).trans ht, hidle, hdone, halone.self.dir_eq, by omega, by omega⟩

end

/-! ### Quiet controllers -/

/-- A controller on which nothing but its host's context can step: no reset, no delivery, no handler. -/
structure Inst.Quiet (i : Inst) : Prop where
  noResets : i.resets = []
  noTarget : i.role ≠ .target
  noDelivery : i.deliverAt = none
  noHandler : i.interrupt.status = .idle
  notMasked : i.inIsr = false

section
variable {s t : State} {d : Side} {i j : Inst} {a : Agent} {m : Micro} {b : Bool}

/-- What holds of a controller and of its partner holds of both controllers. -/
theorem Side.forall_of {p : Side → Prop} (hself : p d) (hpartner : p d.other) (e : Side) : p e := by
  by_cases he : e = d
  · exact he ▸ hself
  · exact Side.eq_other_of_ne he ▸ hpartner

theorem SameButEdges.quiet (h : SameButEdges i j) (hi : i.Quiet) : j.Quiet := by
  rw [h]
  exact { hi with }

/-- A step of a quiet controller's host leaves it quiet, but for INITT's arming of a target. -/
theorem Inst.Quiet.runMicro (h : s.self.Quiet) (hrun : runMicro m s = .next t) (hkind : s.cur.kind = .ordinary)
    (hm : m ≠ .armTarget ∧ m ≠ .handlerReturn) : t.self.Quiet := by
  obtain ⟨i, hwrites, heffect⟩ := runMicro_microEffect hrun
  obtain ⟨hresets, hrole, hdeliver, hisr⟩ := hwrites.quiet_eq hm.1 hm.2
  have hinterrupt : t.ctx { s.cur with kind := .interrupt } = s.ctx { s.cur with kind := .interrupt } :=
    (runMicro_onlyOwnContext hrun hm.2).ctx _ fun hc => nomatch (congrArg ContextId.kind hc).trans hkind
  have hhandler : t.self.interrupt = s.self.interrupt := by
    rw [State.self, heffect.globals.cur_eq]
    exact hinterrupt
  refine ⟨?_, ?_, ?_, hhandler ▸ h.noHandler, ?_⟩ <;> rw [heffect.self]
  · exact hresets.trans h.noResets
  · exact hrole h.noTarget
  · exact hdeliver.trans h.noDelivery
  · exact hisr.trans h.notMasked

/-- Where both controllers are quiet, only their hosts' contexts are ever due. -/
theorem State.due_eq_none_of_quiet (hquiet : ∀ e, (s.inst e).Quiet) (ha : ∀ e : Side, a ≠ .context e.host) :
    s.due a = none := by
  cases a with
  | context c =>
    obtain ⟨e, kind⟩ := c
    cases kind with
    | ordinary => exact absurd rfl (ha e)
    | interrupt => simp [State.due, Inst.contextDue, Inst.ctx, (hquiet e).noHandler]
  | edge e => simp [State.due, Inst.edgeDue, Inst.deliverable, (hquiet e).noTarget, (hquiet e).noDelivery]
  | reset e => exact congrArg List.head? (hquiet e).noResets

/-- What an input leaves on the line: what the partner drives (R232). -/
theorem State.driven_iff_of_input (hin : (s.inst d).dir = .input) : s.Driven b ↔ (s.inst d.other).Drives b := by
  refine ⟨fun ⟨e, he⟩ => ?_, fun h => ⟨_, h⟩⟩
  by_cases hed : e = d
  · subst hed
    simp [Inst.Drives, hin] at he
  · exact Side.eq_other_of_ne hed ▸ he

end

/-! ### A partner that releases the line -/

/-- `s` is a state of the run from `o` in which the partner of `d` holds the line low and its host, at `r`, drives it
high: the ordinary context of `d` goes on at `u`, with `ms` left to do, and nothing else is to happen. -/
structure State.AwaitsRelease (o s : State) (d : Side) (r u : Nat) (ms : List Micro) : Prop where
  params : s.params = o.params
  quiet : ∀ e, (s.inst e).Quiet
  partnerIdle : (s.inst d.other).ordinary.status = .idle
  script : (s.inst d.other).script = [{ time := r, move := .words [0x03] }]
  holds : (s.inst d.other).Drives false
  code : (s.ctx d.host).code = ms
  goesOn : (s.ctx d.host).GoesOn s.now u
  notPast : s.now ≤ r

section
variable {o s t : State} {d : Side} {m : Micro} {ms rest : List Micro} {r u w n : Nat}

/-- The release is still to come where the partner is as it was, but for its latched edge, and `d` is still quiet. -/
theorem State.AwaitsRelease.goOn (h : o.AwaitsRelease s d r u rest) (hparams : t.params = s.params)
    (hself : (t.inst d).Quiet) (hpartner : SameButEdges (s.inst d.other) (t.inst d.other))
    (hcode : (t.ctx d.host).code = ms) (hgoes : (t.ctx d.host).GoesOn t.now w) (hnow : t.now ≤ r) :
    o.AwaitsRelease t d r w ms where
  params := hparams.trans h.params
  quiet := Side.forall_of hself (hpartner.quiet (h.quiet d.other))
  partnerIdle := by rw [hpartner]; exact h.partnerIdle
  script := by rw [hpartner]; exact h.script
  holds := by rw [hpartner]; exact h.holds
  code := hcode
  goesOn := hgoes
  notPast := hnow

theorem State.AwaitsRelease.afterPick (h : o.AwaitsRelease s d r u ms) : o.AwaitsRelease s.afterPick d r u ms := by
  rcases s.afterPick_cases with hpick | hpick <;> rw [hpick]
  · exact h
  · refine h.goOn rfl ?_ ?_ ?_ ?_ h.notPast
    · simpa using h.quiet d
    · simpa using .refl _
    · simpa using h.code
    · simpa using h.goesOn

theorem State.AwaitsRelease.advanceTo (h : o.AwaitsRelease s d r u ms) (hn : s.now ≤ n) (hu : n ≤ u) (hr : n ≤ r) :
    o.AwaitsRelease (s.advanceTo n) d r u ms := by
  refine h.goOn rfl ?_ ?_ ?_ ?_ hr
  · simpa using h.quiet d
  · simpa using .refl _
  · simpa using h.code
  · rw [State.advanceTo_ctx]
    exact h.goesOn.mono hn hu

theorem State.AwaitsRelease.due_own (h : o.AwaitsRelease s d r u (m :: ms)) : s.due (.context d.host) = some u :=
  State.due_of_goesOn (h.quiet d).notMasked h.goesOn (by simp [h.code])

theorem State.AwaitsRelease.due_partner (h : o.AwaitsRelease s d r u ms) :
    s.due (.context d.other.host) = some r := by
  simp [State.due, Inst.contextDue, Side.host, (h.quiet d.other).notMasked, Inst.ctx, h.partnerIdle, Inst.hostDue,
    h.script]

/-- The next step is the poll or the release, at its instant, or time advances to the earlier of the two. -/
theorem State.AwaitsRelease.step_cases (h : o.AwaitsRelease s d r u (m :: ms)) :
    (u = s.now ∧ step s = runContext d.host s.afterPick) ∨ (r = s.now ∧ step s = issueHost d.other s.afterPick) ∨
      ∃ n, s.now < n ∧ n ≤ u ∧ n ≤ r ∧ step s = .next (s.advanceTo n) := by
  cases hpick : s.pick with
  | none =>
    obtain ⟨n, hstep, hn, -, hleast, -⟩ := timeAdvance s u _ (State.not_ready_of_pick_none hpick) h.due_own
    exact .inr (.inr ⟨n, hn, hleast _ _ h.due_own, hleast _ _ h.due_partner, hstep⟩)
  | some a =>
    have hready := State.ready_of_pick hpick
    rw [step_of_pick hpick]
    by_cases hown : a = .context d.host
    · subst hown
      rw [State.ready_iff_le h.due_own] at hready
      have hbusy := h.afterPick.goesOn.busy (h.afterPick.code ▸ List.cons_ne_nil m ms)
      exact .inl ⟨le_antisymm hready h.goesOn.le, runAgent_busy hbusy⟩
    · by_cases hother : a = .context d.other.host
      · subst hother
        rw [State.ready_iff_le h.due_partner] at hready
        exact .inr (.inl ⟨le_antisymm hready h.notPast, runAgent_idle h.afterPick.partnerIdle⟩)
      · have hnone : s.due a = none := State.due_eq_none_of_quiet h.quiet
          (Side.forall_of (p := fun e => a ≠ .context e.host) hown hother)
        simp [State.ready_eq_false hnone] at hready

/-- A step of the context of `d` that leaves it more to do is one of the run before the release. -/
theorem State.AwaitsRelease.take (h : o.AwaitsRelease s d r s.now (m :: rest))
    (hm : m ≠ .armTarget ∧ m ≠ .handlerReturn) (hrun : runMicro m (s.running d.host rest) = .next t)
    (hcode : (t.ctx d.host).code = ms) (hms : ms ≠ []) (hgoes : (t.ctx d.host).GoesOn s.now w) :
    runContext d.host s = .next t ∧ o.AwaitsRelease t d r w ms := by
  obtain ⟨_, -, heffect⟩ := runMicro_microEffect hrun
  have hcur : t.cur = d.host := heffect.globals.cur_eq
  have hturned : (s.running d.host rest).self.Quiet := by
    rw [State.self_of_cur (d := d) rfl]
    exact (s.turn_inst d.host _).symm ▸ { h.quiet d with }
  have hself : (t.inst d).Quiet := State.self_of_cur hcur ▸ hturned.runMicro hrun rfl hm
  have hstep : runContext d.host s = .next t := by
    rw [runContext_cons h.code, hrun]
    exact congrArg _ (State.finish_of_code_ne_nil (by rwa [hcur, hcode]))
  have hnow := runContext_now hstep
  exact ⟨hstep, h.goOn (heffect.globals.params_eq.trans (s.setCtx_params _ _)) hself (runContext_partner hstep) hcode
    (hnow ▸ hgoes) (hnow ▸ h.notPast)⟩

/-- SETIN before the release: the context of `d` goes on at once, its port an input. -/
theorem State.AwaitsRelease.setin (h : o.AwaitsRelease s d r s.now (.op .setin :: m :: ms)) :
    ∃ t, runContext d.host s = .next t ∧ o.AwaitsRelease t d r s.now (m :: ms) ∧ (t.inst d).dir = .input := by
  have hspec := (s.running d.host (m :: ms)).writePort_spec .input (s.running d.host (m :: ms)).self.olat
  have hctx := ((s.running d.host (m :: ms)).ctx_writePort .input (s.running d.host (m :: ms)).self.olat).trans
    (s.turn_ctx d.host _)
  obtain ⟨hstep, hnext⟩ := h.take ⟨nofun, nofun⟩ rfl (congrArg Context.code hctx) (List.cons_ne_nil m ms)
    (.ready (congrArg Context.status hctx) rfl)
  exact ⟨_, hstep, hnext, State.self_of_cur (d := d) hspec.globals.cur_eq ▸ hspec.self_dir⟩

/-- After a poll that read 0 the next one comes within `J_POLL` (R264). -/
theorem State.running_pollAgain_within (s : State) (d : Side) (rest : List Micro) (hgap : 1 ≤ s.params.jPoll) :
    ∃ w, s.now < w ∧ w ≤ s.now + s.params.jPoll ∧ (s.running d.host rest).pollAgain =
      (s.turn d.host { s.ctx d.host with status := .polling w, code := .op .waith :: rest }).afterDraw := by
  have hdraw := drawUpTo_le (s.params.jPoll - 1) s.drawn
  refine ⟨s.now + 1 + drawUpTo (s.params.jPoll - 1) s.drawn, by omega, by omega, ?_⟩
  cases d <;> rfl

/-- A poll before the release reads 0. -/
theorem State.AwaitsRelease.poll (h : o.AwaitsRelease s d r s.now (.op .waith :: rest))
    (hin : (s.inst d).dir = .input) (hgap : 1 ≤ o.params.jPoll) :
    ∃ t w, runContext d.host s = .next t ∧ o.AwaitsRelease t d r w (.op .waith :: rest) ∧
      (t.inst d).dir = .input ∧ s.now < w ∧ w ≤ s.now + o.params.jPoll := by
  have hlow : (s.running d.host rest).line = .low := by
    obtain ⟨hdir, holat⟩ := h.holds
    refine (s.turn_line d.host _).trans (State.line_eq_low_iff.mpr ?_)
    simp [State.driven_iff_of_input hin, Inst.Drives, hdir, holat]
  obtain ⟨w, hlater, hsoon, hpolls⟩ := s.running_pollAgain_within d rest (h.params ▸ hgap)
  have hrun := (exec_waith_of_low hlow).trans (congrArg _ hpolls)
  obtain ⟨hstep, hnext⟩ := h.take ⟨nofun, nofun⟩ hrun (congrArg Context.code (s.turn_ctx d.host _))
    (List.cons_ne_nil _ rest) (.waiting (.inr (by simp)) hlater.le)
  refine ⟨_, w, hstep, hnext, ?_, hlater, h.params ▸ hsoon⟩
  rw [State.afterDraw_inst]
  exact (congrArg Inst.dir (s.turn_inst d.host _)).trans hin

theorem State.issue_self (s : State) (d : Side) (op : Byte) (script : List HostItem) :
    (s.issue d op script).self =
      { s.inst d with script := script, ordinary := { (s.inst d).ordinary with opcode := op } } := by
  cases d <;> rfl

/-- The state once the host of `d`, with nothing planned after it, issued DRVH. -/
def State.afterDrvh (s : State) (d : Side) : State := (s.issue d 0x03 []).writeOlat true

/-- The release is the partner's host issuing DRVH, the last move of its script (log entry 9). -/
theorem State.AwaitsRelease.issueHost_eq (h : o.AwaitsRelease s d r u ms) :
    issueHost d.other s = .next (s.afterDrvh d.other) := issueHost_op h.script rfl

/-- The release: the partner's host drives the line that `d` does not drive, and is done (R235). -/
theorem State.AwaitsRelease.release (h : o.AwaitsRelease s d r u ms) (hin : (s.inst d).dir = .input) :
    (s.afterDrvh d.other).Alone d ∧ (s.afterDrvh d.other).line = .high ∧
      SameButEdges (s.inst d) ((s.afterDrvh d.other).inst d) ∧ (s.afterDrvh d.other).params = s.params := by
  have hspec : PortWritten _ (s.afterDrvh d.other) _ true := (s.issue d.other 0x03 []).writePort_spec _ true
  have hself : (s.afterDrvh d.other).self = (s.afterDrvh d.other).inst d.other :=
    State.self_of_cur hspec.globals.cur_eq
  have hkept : SameButEdges (s.inst d) ((s.afterDrvh d.other).inst d) := by
    simpa using issueHost_partner h.issueHost_eq
  have hissued : (s.issue d.other 0x03 []).self.Quiet := by
    rw [State.issue_self]
    exact { h.quiet d.other with }
  have hquiet : ∀ e, ((s.afterDrvh d.other).inst e).Quiet := Side.forall_of (hkept.quiet (h.quiet d))
    (hself ▸ hissued.runMicro (m := .op .drvh) rfl rfl ⟨nofun, nofun⟩)
  have hhost : (s.afterDrvh d.other).self.ordinary.status = .idle ∧ (s.afterDrvh d.other).self.script = [] := by
    rw [hspec.self, State.issue_self]
    exact ⟨h.partnerIdle, rfl⟩
  refine ⟨.of_quiet (fun e => ?_) (hquiet d).notMasked (hself ▸ hhost), ?_, hkept,
    hspec.globals.params_eq.trans (s.setInst_params _ _)⟩
  · exact ⟨(hquiet e).noResets, (hquiet e).noTarget, (hquiet e).noDelivery, (hquiet e).noHandler⟩
  · have hin' := (congrArg Inst.dir hkept).trans hin
    have holat := hspec.self_olat
    rw [hself] at holat
    simp [State.line_eq_high_iff, State.driven_iff_of_input hin', Inst.Drives, holat]

/-- RSYNC that polls until the release at `r`: it catches it within `J_POLL` and returns `T_HALF` and one draw later
(R291, R293). -/
theorem State.AwaitsRelease.rsync_returns (h : o.AwaitsRelease s d r u [.op .waith, delayHalf])
    (hin : (s.inst d).dir = .input) (hgap : 1 ≤ o.params.jPoll) (hu : u ≤ r + o.params.jPoll) :
    ∃ t, Reaches s t ∧ (t.ctx d.host).status = .idle ∧ (t.ctx d.host).code = [] ∧ t.self.dir = .input ∧
      r + o.params.tHalf ≤ t.now ∧ t.now ≤ r + o.params.jPoll + o.params.tHalf + o.params.jDelay := by
  induction hk : (r + o.params.jPoll - u) + (r - s.now) using Nat.strong_induction_on generalizing s u with
  | _ k ih =>
    subst hk
    have hpast := h.notPast
    have hlate := h.goesOn.le
    have hin' : (s.afterPick.inst d).dir = .input := by rwa [State.afterPick_inst]
    have hnow := s.afterPick_now
    rcases h.step_cases with ⟨rfl, hstep⟩ | ⟨rfl, hstep⟩ | ⟨n, hn, hnu, hnr, hstep⟩
    · obtain ⟨x, w, hrun, hx, hxin, hlater, hsoon⟩ := (hnow ▸ h.afterPick).poll hin' hgap
      have hxnow := runContext_now hrun
      obtain ⟨t, ht, hdone⟩ := ih _ (by omega) hx hxin (by omega) rfl
      exact ⟨t, .head (hstep.trans hrun) ht, hdone⟩
    · obtain ⟨halone, hline, hkept, hparams⟩ := h.afterPick.release hin'
      have hctx : (s.afterPick.afterDrvh d.other).ctx d.host = s.afterPick.ctx d.host := hkept.ctx_eq .ordinary
      have hcode := (congrArg Context.code hctx).trans h.afterPick.code
      have hgoes := h.afterPick.goesOn
      rw [← hctx, ← issueHost_now h.afterPick.issueHost_eq] at hgoes
      obtain ⟨t, ht, hidle, hdone, hdir, hlow, hhigh⟩ := halone.rsync_returns hline hcode hgoes
      rw [hparams, h.afterPick.params] at hlow hhigh
      exact ⟨t, .head (hstep.trans h.afterPick.issueHost_eq) ht, hidle, hdone,
        hdir.trans ((congrArg Inst.dir hkept).trans hin'), by omega, by omega⟩
    · have hnear : r + o.params.jPoll - u + (r - n) < r + o.params.jPoll - u + (r - s.now) := by omega
      obtain ⟨t, ht, hdone⟩ := ih _ hnear (h.advanceTo hn.le hnu hnr) (by simpa) hu rfl
      exact ⟨t, .head hstep ht, hdone⟩

theorem State.Issuing.status_eq (h : s.Issuing d) : (s.ctx d.host).status = .idle := by
  rw [← h.cur_eq]
  obtain ⟨-, hstatus, -⟩ := h
  exact hstatus

/-- RSYNC that is issued while the partner is still to release the line is at its first step (R291). -/
theorem State.AwaitsRelease.start (halone : (s.setInst d.other { s.inst d.other with script := [] }).Alone d)
    (hissue : s.Issuing d) (hscript : (s.inst d.other).script = [{ time := r, move := .words [0x03] }])
    (hr : s.now ≤ r) (hholds : (s.inst d.other).Drives false) (hmasked : (s.inst d.other).inIsr = false) :
    s.AwaitsRelease (s.load rsyncCode) d r s.now rsyncCode := by
  obtain ⟨hself, hpartner⟩ : (s.inst d).Quiet ∧ (s.inst d.other).Quiet := by
    obtain ⟨hresets, hrole, hdeliver, hhandler⟩ := halone.quiet d
    obtain ⟨hresets', hrole', hdeliver', hhandler'⟩ := halone.quiet d.other
    have hown := halone.notMasked
    cases d <;> exact ⟨⟨hresets, hrole, hdeliver, hhandler, hown⟩, ⟨hresets', hrole', hdeliver', hhandler', hmasked⟩⟩
  obtain ⟨hidle, -⟩ := halone.partnerIdle
  have hissued : s.AwaitsRelease s d r s.now [] :=
    ⟨rfl, Side.forall_of hself hpartner, by simpa using hidle, hscript, hholds, hissue.code_eq,
      .ended hissue.status_eq hissue.code_eq rfl, hr⟩
  have hctx := s.ctx_load rsyncCode
  have hload := s.self_load rsyncCode
  have hother := s.load_other rsyncCode
  rw [hissue.cur_eq] at hctx hload hother
  rw [State.self_of_cur ((s.load_cur _).trans hissue.cur_eq), State.self_of_cur hissue.cur_eq] at hload
  rw [hissue.code_eq] at hctx
  refine hissued.goOn (s.load_params _) (hload ▸ { hself with }) (hother ▸ .refl _) (congrArg Context.code hctx)
    (.ready (congrArg Context.status hctx) (s.load_now _).symm) ?_
  exact (s.load_now _).le.trans hr

end

/-! ### The obligations -/

/-- Settles O27: each latch write and the turn of the port take no time, and the two delays follow them. -/
theorem ssyncCompletes : Obligations.SsyncCompletes := by
  intro s d halone hissue
  have hstart := State.RunsAt.start (op := .ssync) halone hissue rfl
  obtain ⟨x, hx, hlow⟩ := State.RunsAt.drive (b := false) hstart
  obtain ⟨y, hy, hout, -⟩ := hlow.setDir .output fun _ => rfl
  obtain ⟨z, hz, hsync, -⟩ := hout.delay (v := s.params.tSync) rfl
  obtain ⟨w, hw, hhigh⟩ := State.RunsAt.drive (b := true) hsync
  obtain ⟨t, ht, hrel, -⟩ := hhigh.delay (v := s.params.tRel) rfl
  have hdraw := drawUpTo_le s.params.jDelay
  have := hdraw y.drawn
  have := hdraw w.drawn
  refine hrel.completes hissue rfl ((((hx.trans hy).trans hz).trans hw).trans ht) fun v hv hnow => ?_
  exact ⟨hv.self.dir_eq, hv.self.olat_eq, by omega, by omega⟩

/-- Settles O28: once the port is an input the line is high, so the first poll ends WAITH. -/
theorem rsyncCompletes : Obligations.RsyncCompletes := by
  intro s d halone hissue hfree
  have hstart := State.RunsAt.start (op := .rsync) halone hissue rfl
  obtain ⟨x, hx, hin, -⟩ := hstart.setDir .input fun _ => rfl
  obtain ⟨-, hhigh⟩ := hin.line_of_input rfl
  obtain ⟨t, ht, hidle, hdone, hdir, htime⟩ := hin.alone.rsync_returns (hhigh.mpr hfree) hin.code hin.goesOn
  rw [hin.params] at htime
  rw [← State.self_of_cur hin.cur, hin.self.dir_eq] at hdir
  exact ⟨_, t, rfl, hx.trans ht, hissue.cur_eq ▸ hidle, hissue.cur_eq ▸ hdone, hdir, htime⟩

/-- Settles O60: until the release every poll reads 0, and each step brings the next poll or the release nearer. -/
theorem rsyncWaitsForRelease : Obligations.RsyncWaitsForRelease := by
  intro s d r halone hissue hgap hscript hr hdir holat hmasked
  have hstart := State.AwaitsRelease.start halone hissue hscript hr.le ⟨hdir, holat⟩ hmasked
  have hnow : (s.load rsyncCode).now = s.now := s.load_now _
  have hstep : step (s.load rsyncCode) = runContext d.host (s.load rsyncCode).afterPick := by
    rcases hstart.step_cases with ⟨-, hstep⟩ | ⟨hrel, -⟩ | ⟨n, hn, hle, -, -⟩
    · exact hstep
    · omega
    · omega
  have hfirst : s.AwaitsRelease (s.load rsyncCode).afterPick d r (s.load rsyncCode).afterPick.now rsyncCode := by
    simpa using hstart.afterPick
  obtain ⟨x, hrun, hx, hin⟩ := hfirst.setin
  obtain ⟨t, ht, hidle, hdone, hend⟩ := hx.rsync_returns hin hgap (by simp; omega)
  exact ⟨_, t, rfl, .head (hstep.trans hrun) ht, hissue.cur_eq ▸ hidle, hissue.cur_eq ▸ hdone, hend⟩

end Sys2Proof.Machine
end

section
/-! PROOFS of the obligations about the checksum (44_checksum.md). `sumBytes_eq_sum` reads the sum of a byte sequence as a
sum in the group of the bytes, whose laws give those of R356 and the detection of a single wrong byte (R357). -/

namespace Sys2Proof.Machine

/-! ### The operations on written registers, and their refusals -/

section
variable {s : State} {x y : Byte}

theorem exec_ckadd (v : Byte) (hsum : s.self.sum = some x) :
    exec (.ckadd v) s = .next (s.setSelf { s.self with sum := some (sumAdd x v) }) := by
  simp [exec, execCkadd, hsum]

theorem exec_ckaddr (hsum : s.self.sum = some x) (hres : s.self.res = some y) :
    exec .ckaddr s = .next (s.setSelf { s.self with sum := some (sumAdd x y) }) := by
  simp [exec, execCkaddr, hsum, hres]

theorem exec_ckfold (hsum : s.self.sum = some x) :
    exec .ckfold s = .next (s.setSelf { s.self with ck := some (fold x) }) := by
  simp [exec, execCkfold, hsum]

theorem exec_ckcmp (hck : s.self.ck = some x) (hres : s.self.res = some y) :
    exec .ckcmp s = .next (s.setSelf { s.self with matchFlag := some (matches8 x y) }) := by
  simp [exec, execCkcmp, hck, hres]

end

section
variable {α β : Type} {s : State} {p : Option α} {q : Option β}

/-- A read of an unwritten register is refused, whatever would follow it (R56, R557). -/
theorem State.withReg_refused (k : α → State) (hp : p = none) :
    ∃ t, Host.Outcome.next (s.withReg p k) = (.next t : Host.Outcome State Fault Refusal) ∧
      Refused s t .uninitRead := by
  rw [hp]
  exact ⟨_, rfl, s.refuse_spec _⟩

/-- Of two registers read in turn, the first one that is unwritten gives the one refusal. -/
theorem State.withReg_withReg_refused (k : α → β → State) (h : p = none ∨ q = none) :
    ∃ t, Host.Outcome.next (s.withReg p fun x => s.withReg q (k x)) =
      (.next t : Host.Outcome State Fault Refusal) ∧ Refused s t .uninitRead := by
  rcases s.withReg_cases p fun x => s.withReg q (k x) with ⟨x, hx, hk⟩ | ⟨hp, -⟩
  · have hq : q = none := h.resolve_left (by simp [hx])
    rw [hk]
    exact State.withReg_refused (k x) hq
  · exact State.withReg_refused _ hp

end

/-! ### The arithmetic of one operation -/

/-- The carry out of bit 7 is discarded (R351). -/
theorem sumAdd_eq_ofNat (x v : Byte) : sumAdd x v = BitVec.ofNat 8 ((x.toNat + v.toNat) % 256) :=
  BitVec.eq_of_toNat_eq (by simp [sumAdd])

theorem fold_eq_ofNat (x : Byte) : fold x = BitVec.ofNat 8 (x.toNat ^^^ 7) :=
  BitVec.eq_of_toNat_eq (by simp [fold, foldConst])

theorem matches8_eq_beq (x y : Byte) : matches8 x y = (x.toNat == y.toNat) := by
  rw [Bool.eq_iff_iff]
  simp [matches8, BitVec.toNat_inj]

theorem matches8_of_eq {x y : Byte} (h : x = y) : matches8 x y = true := decide_eq_true h

theorem matches8_of_ne {x y : Byte} (h : x ≠ y) : matches8 x y = false := decide_eq_false h

/-- Settles O29: each operation writes its arithmetic's result, and a read of an unwritten register refuses. -/
theorem checksumOperations : Obligations.ChecksumOperations := by
  refine ⟨rfl, fun _ => rfl, rfl, rfl, rfl, fun s x y => ⟨rfl, fun v => ⟨fun hsum => ?_, State.withReg_refused _⟩,
    fun hsum hres => ?_, State.withReg_withReg_refused _, fun hsum => ?_, State.withReg_refused _,
    fun hck hres => ?_, State.withReg_withReg_refused _⟩⟩
  · rw [exec_ckadd v hsum, sumAdd_eq_ofNat]
  · rw [exec_ckaddr hsum hres, sumAdd_eq_ofNat]
  · rw [exec_ckfold hsum, fold_eq_ofNat]
  · rw [exec_ckcmp hck hres, matches8_eq_beq]

/-! ### The checksum of a byte sequence -/

/-- The running sum is the sum in the group of the bytes. -/
theorem sumBytes_eq_sum (bytes : List Byte) : sumBytes bytes = bytes.sum :=
  List.sum_eq_foldl.symm

/-- The sum is the sum of the numbers, modulo 256 (R177). -/
theorem toNat_sumBytes (bytes : List Byte) : (sumBytes bytes).toNat = (bytes.map BitVec.toNat).sum % 256 := by
  simp [sumBytes, toNat_foldl_sumAdd]

theorem sumBytes_append_singleton (bytes : List Byte) (v : Byte) :
    sumBytes (bytes ++ [v]) = sumAdd (sumBytes bytes) v := by
  simp [sumBytes]

/-- The fold is a bijection, so checksums compare as their sums do. -/
theorem cksum_eq_cksum_iff {a b : List Byte} : cksum a = cksum b ↔ sumBytes a = sumBytes b :=
  ⟨fold_inj, congrArg fold⟩

/-- A byte that differs from the one it replaces changes the sum by a difference that is not 0 (R357). -/
theorem sumBytes_set_ne {bytes : List Byte} {k : Nat} {v : Byte} (hk : k < bytes.length) (hv : bytes[k] ≠ v) :
    sumBytes (bytes.set k v) ≠ sumBytes bytes := by
  have hset : sumBytes (bytes.set k v) = sumBytes bytes + (-bytes[k] + v) := by
    simpa [sumBytes_eq_sum, hk] using bytes.sum_set' k v
  intro heq
  have hdiff : -bytes[k] + v = 0 := by simpa [heq] using hset
  exact hv (neg_add_eq_zero.mp hdiff)

/-- Settles O32: the checksums of the two sequences are equal exactly where their sums are. -/
theorem validationDetectsOneByte : Obligations.ValidationDetectsOneByte := by
  intro s sent
  refine ⟨fun k v hk hv hck hres => ?_, fun c hc hck hres => ?_, fun received hsum hck hres => ?_⟩
  · have hne := cksum_eq_cksum_iff.not.mpr (sumBytes_set_ne hk hv)
    rw [exec_ckcmp hck hres, matches8_of_ne hne]
  · rw [exec_ckcmp hck hres, matches8_of_ne hc.symm]
  · have heq : sumBytes received = sumBytes sent :=
      BitVec.eq_of_toNat_eq (by rw [toNat_sumBytes, toNat_sumBytes, hsum])
    rw [exec_ckcmp hck hres, matches8_of_eq (cksum_eq_cksum_iff.mpr heq)]

/-- Settles O33: the laws are those of a sum in a commutative group, and of a fold that undoes itself. -/
theorem checksumLaws : Obligations.ChecksumLaws := by
  refine ⟨fun a v => ?_, fun a b hperm => ?_, fun a => fold_fold (sumBytes a), rfl, fun a => ?_⟩
  · rw [sumBytes_append_singleton]
    exact BitVec.toNat_add _ _
  · rw [cksum_eq_cksum_iff, sumBytes_eq_sum, sumBytes_eq_sum, hperm.sum_eq]
  · rw [cksum_eq_cksum_iff, sumBytes_append_singleton]
    exact BitVec.add_zero _

end Sys2Proof.Machine
end

section
/-! PROOFS of the obligations about edge detection and interrupts (45_control.md). A port write is told by what each
detector sees of it (`State.writePort_edgePend`) and by what a detector makes of a rise and of contention
(`State.detect_rise_of_long`, `State.detect_contention`). Of all agents only the delivery of a deliverable edge sets
IN_ISR (`runAgent_enters_handler`). -/

namespace Sys2Proof.Machine

/-! ### O35: one detector and one change of the line -/

/-- The edge that the next draw decides about (R231; log entry 12). -/
def State.drawnEdge (s : State) (d : Side) : State :=
  if drawBit s.drawn then s.afterDraw.latchEdge d none else s.afterDraw

/-- No low pulse that ends now at the detector of `d` is shorter than `W_EDGE_MIN` (R380). -/
def State.LongPulse (s : State) (d : Side) : Prop :=
  ∀ t0, (s.inst d).edgeFall = some t0 → t0 + s.params.wEdgeMin ≤ s.now

section
variable {s : State} {d : Side} {before after : Line}

theorem State.latchEdge_env (s : State) (d : Side) (fall : Option Nat) : (s.latchEdge d fall).env = s.env := by
  unfold State.latchEdge
  split <;> simp

theorem State.drawnEdge_env (s : State) (d : Side) : (s.drawnEdge d).env = s.afterDraw.env := by
  unfold State.drawnEdge
  split
  · exact State.latchEdge_env _ d none
  · rfl

theorem State.drawnEdge_edgePend (s : State) (d : Side) :
    ((s.drawnEdge d).inst d).edgePend = ((s.inst d).edgePend || drawBit s.drawn) := by
  unfold State.drawnEdge
  split
  · next hdraw => rw [State.latchEdge_pending, hdraw, Bool.or_true]
  · next hdraw => simp [hdraw]

/-- The end of a pulse that is long enough takes no draw, and the edge it made stays pending (R380). -/
theorem State.endPulse_of_long (h : s.LongPulse d) :
    s.endPulse d = s.setInst d { s.inst d with edgeFall := none } := by
  unfold State.endPulse
  split
  · next hfall =>
    have hsame : { s.inst d with edgeFall := none } = s.inst d := by rw [← hfall]
    rw [hsame, State.setInst_inst]
  · next t0 hfall => exact if_neg (Nat.not_lt.mpr (h t0 hfall))

/-- The end of a pulse latches nothing. -/
theorem State.edgePend_of_endPulse (h : ((s.endPulse d).inst d).edgePend = true) : (s.inst d).edgePend = true := by
  unfold State.endPulse at h
  split at h
  · exact h
  · split at h
    · exact (Bool.and_eq_true_iff.mp (by simpa using h)).1
    · simpa using h

theorem State.detect_disabled (h : (s.inst d).edgeEn = false) : s.detect d before after = s := if_pos h

theorem State.detect_rise (h : (s.inst d).edgeEn = true) : s.detect d .low .high = s.endPulse d := by
  simp [State.detect, h]

theorem State.edgePend_of_detect_rise (h : ((s.detect d .low .high).inst d).edgePend = true) :
    (s.inst d).edgePend = true := by
  cases hen : (s.inst d).edgeEn with
  | false => rwa [State.detect_disabled hen] at h
  | true =>
    rw [State.detect_rise hen] at h
    exact State.edgePend_of_endPulse h

theorem State.detect_rise_of_long (h : s.LongPulse d) :
    ((s.detect d .low .high).inst d).edgePend = (s.inst d).edgePend := by
  cases hen : (s.inst d).edgeEn with
  | false => rw [State.detect_disabled hen]
  | true => simp [State.detect_rise hen, State.endPulse_of_long h]

/-- From low to contended the pulse ends, and the draw comes after it. -/
theorem State.detect_low_contended (h : (s.inst d).edgeEn = true) :
    s.detect d .low .contended = (s.endPulse d).drawnEdge d := by
  simp [State.detect, h, State.drawnEdge]

/-- Every other change into or out of contention is the draw's alone. -/
theorem State.detect_unclear (hen : (s.inst d).edgeEn = true) (hne : before ≠ after)
    (hcontended : before = .contended ∨ after = .contended) (hlow : before ≠ .low ∨ after ≠ .contended) :
    s.detect d before after = s.drawnEdge d := by
  have hunclear : unclearEdge before after = true := by simp [unclearEdge, hne, hcontended]
  unfold State.detect
  rw [if_neg (by simp [hen])]
  split
  · simp at hcontended
  · simp at hcontended
  · simp at hlow
  · exact if_pos hunclear

/-- A change into or out of contention that ends no short pulse takes one draw, which says whether it latches (R231). -/
theorem State.detect_contention (hen : (s.inst d).edgeEn = true) (hlong : s.LongPulse d) (hne : before ≠ after)
    (hcontended : before = .contended ∨ after = .contended) :
    (s.detect d before after).env = s.afterDraw.env ∧
      ((s.detect d before after).inst d).edgePend = ((s.inst d).edgePend || drawBit s.drawn) := by
  obtain ⟨u, hdetect, henv, hpend⟩ : ∃ u : State, s.detect d before after = u.drawnEdge d ∧ u.env = s.env ∧
      (u.inst d).edgePend = (s.inst d).edgePend := by
    by_cases hlow : before = .low ∧ after = .contended
    · obtain ⟨rfl, rfl⟩ := hlow
      refine ⟨_, State.detect_low_contended hen, ?_, ?_⟩ <;> simp [State.endPulse_of_long hlong]
    · exact ⟨s, State.detect_unclear hen hne hcontended (not_and_or.mp hlow), rfl, rfl⟩
  rw [hdetect, State.drawnEdge_env, State.drawnEdge_edgePend, hpend]
  simp [State.afterDraw, State.drawn, henv]

end

/-! ### O35: what each detector sees of a port write -/

/-- The detector of `d` finds in `t` what it finds in `s`: its enable and its latch, the clock and the parameters. -/
structure SameDetector (s t : State) (d : Side) : Prop where
  edgeEn : (t.inst d).edgeEn = (s.inst d).edgeEn
  edgePend : (t.inst d).edgePend = (s.inst d).edgePend
  edgeFall : (t.inst d).edgeFall = (s.inst d).edgeFall
  now : t.now = s.now
  params : t.params = s.params

section
variable {s t u : State} {d : Side} {dir : Dir} {olat : Bool}

theorem SameDetector.trans (h1 : SameDetector s t d) (h2 : SameDetector t u d) : SameDetector s u d where
  edgeEn := h2.edgeEn.trans h1.edgeEn
  edgePend := h2.edgePend.trans h1.edgePend
  edgeFall := h2.edgeFall.trans h1.edgeFall
  now := h2.now.trans h1.now
  params := h2.params.trans h1.params

theorem SameDetector.longPulse (h : SameDetector s t d) (hlong : s.LongPulse d) : t.LongPulse d := by
  unfold State.LongPulse
  rwa [h.edgeFall, h.now, h.params]

theorem State.portMid_env (s : State) (dir : Dir) (olat : Bool) : (s.portMid dir olat).env = s.env := by
  simp only [State.portMid]
  split <;> simp

/-- The port write itself, before the detectors look, is none of their business. -/
theorem State.portMid_sameDetector (s : State) (dir : Dir) (olat : Bool) (d : Side) :
    SameDetector s (s.portMid dir olat) d := by
  obtain ⟨i, t, n, tr, p, e, ⟨side, kind⟩⟩ := s
  simp only [State.portMid]
  split <;> cases side <;> cases d <;> exact ⟨rfl, rfl, rfl, rfl, rfl⟩

/-- The state in which the detector of `d` looks at a port write: that of I looks first. -/
def State.seenBy (s : State) (dir : Dir) (olat : Bool) : Side → State
  | .I => s.portMid dir olat
  | .T => (s.portMid dir olat).detect .I s.line (s.writePort dir olat).line

theorem State.seenBy_sameDetector (s : State) (dir : Dir) (olat : Bool) (d : Side) :
    SameDetector s (s.seenBy dir olat d) d := by
  refine (s.portMid_sameDetector dir olat d).trans ?_
  cases d with
  | I => exact ⟨rfl, rfl, rfl, rfl, rfl⟩
  | T =>
    have h := (s.portMid dir olat).detect_detected .I s.line (s.writePort dir olat).line
    have hinst : (s.seenBy dir olat .T).inst .T = (s.portMid dir olat).inst .T := h.other
    exact ⟨congrArg _ hinst, congrArg _ hinst, congrArg _ hinst, h.globals.now_eq, h.globals.params_eq⟩

/-- What a port write leaves pending at `d` is what the detector of `d` makes of the change it sees. -/
theorem State.writePort_edgePend (s : State) (dir : Dir) (olat : Bool) (d : Side) :
    ((s.writePort dir olat).inst d).edgePend =
      (((s.seenBy dir olat d).detect d s.line (s.writePort dir olat).line).inst d).edgePend := by
  have hwrite : s.writePort dir olat =
      (s.seenBy dir olat .T).detect .T s.line (s.writePort dir olat).line := by
    rw [State.seenBy, State.writePort_line]
    rfl
  cases d with
  | T => rw [← hwrite]
  | I =>
    have h := (s.seenBy dir olat .T).detect_detected .T s.line (s.writePort dir olat).line
    rw [← hwrite] at h
    exact congrArg Inst.edgePend h.other

theorem State.drawn_congr (h : t.env = s.env) : t.drawn = s.drawn := by
  unfold State.drawn
  rw [h]

/-- The detector of I has the first draw. -/
theorem State.seenBy_I_drawn (s : State) (dir : Dir) (olat : Bool) : (s.seenBy dir olat .I).drawn = s.drawn :=
  State.drawn_congr (s.portMid_env dir olat)

/-- At a change into or out of contention the draw of T is the one after that of I, where I took one (log entry 12). -/
theorem State.seenBy_T_drawn (hne : s.line ≠ (s.writePort dir olat).line)
    (hcontended : s.line = .contended ∨ (s.writePort dir olat).line = .contended) (hlong : s.LongPulse .I) :
    (s.seenBy dir olat .T).drawn = if s.instI.edgeEn = true then s.afterDraw.drawn else s.drawn := by
  have hmid := s.portMid_sameDetector dir olat .I
  have henv := s.portMid_env dir olat
  rw [State.seenBy]
  split
  · next hen =>
    have hdetect := State.detect_contention (hmid.edgeEn.trans hen) (hmid.longPulse hlong) hne hcontended
    exact State.drawn_congr (hdetect.1.trans (by simp [State.afterDraw, henv]))
  · next hen =>
    rw [State.detect_disabled (hmid.edgeEn.trans (Bool.eq_false_iff.mpr hen))]
    exact State.drawn_congr henv

/-- A port write that changes the line into or out of contention latches where the draw says so. -/
theorem State.writePort_contention (hne : s.line ≠ (s.writePort dir olat).line)
    (hcontended : s.line = .contended ∨ (s.writePort dir olat).line = .contended) (hlong : s.LongPulse d)
    (hen : (s.inst d).edgeEn = true) :
    ((s.writePort dir olat).inst d).edgePend =
      ((s.inst d).edgePend || drawBit (s.seenBy dir olat d).drawn) := by
  have hseen := s.seenBy_sameDetector dir olat d
  rw [State.writePort_edgePend, ← hseen.edgePend]
  exact (State.detect_contention (hseen.edgeEn.trans hen) (hseen.longPulse hlong) hne hcontended).2

/-- The four port operations are port writes (R233 to R236). -/
theorem exec_port_eq_writePort {i : Instr} (hi : i ∈ [Instr.setout, .setin, .drvh, .drvl]) (h : exec i s = .next t) :
    ∃ dir olat, t = s.writePort dir olat := by
  simp only [List.mem_cons, List.not_mem_nil, or_false] at hi
  obtain rfl | rfl | rfl | rfl := hi <;> cases h <;> exact ⟨_, _, rfl⟩

end

/-- Settles O35: each detector sees the change of the line as the port write makes it, that of T after that of I. -/
theorem edgeLatching : Obligations.EdgeLatching := by
  intro s t i hi hexec
  obtain ⟨dir, olat, rfl⟩ := exec_port_eq_writePort hi hexec
  refine ⟨fun d => ?_, fun hne hcontended hlong => ⟨fun hen => ?_, fun hen => ?_⟩⟩
  · have hseen := s.seenBy_sameDetector dir olat d
    have hpend := s.writePort_edgePend dir olat d
    refine ⟨fun hen => ?_, State.writePort_fall_pending, fun hbefore hafter hp => ?_, fun hbefore hafter hlong => ?_,
      fun hsame => ?_⟩
    · rw [hpend, State.detect_disabled (hseen.edgeEn.trans hen), hseen.edgePend]
    · rw [hpend, hbefore, hafter] at hp
      rw [← hseen.edgePend]
      exact State.edgePend_of_detect_rise hp
    · rw [hpend, hbefore, hafter, State.detect_rise_of_long (hseen.longPulse hlong), hseen.edgePend]
    · rw [hpend, ← hsame, State.detect_unchanged, hseen.edgePend]
  · rw [← s.seenBy_I_drawn dir olat]
    exact State.writePort_contention (d := .I) hne hcontended (hlong .I) hen
  · rw [← State.seenBy_T_drawn hne hcontended (hlong .I)]
    exact State.writePort_contention (d := .T) hne hcontended (hlong .T) hen

/-! ### O36: the delivery of an edge -/

section
variable {s : State} {d : Side}

theorem Inst.deliverable_iff {i : Inst} : i.deliverable = true ↔
    i.role = .target ∧ i.edgePend = true ∧ i.inIsr = false ∧ i.interrupt.status = .idle ∧ i.ie = true := by
  simp [Inst.deliverable, and_assoc]

theorem State.edgeStep_delivers {u : Nat} (h : (s.inst d).deliverable = true) (hu : (s.inst d).deliverAt = some u) :
    s.edgeStep d = s.setInst d (s.inst d).enterHandler := by simp [State.edgeStep, h, hu]

theorem State.afterPick_trace (s : State) : s.afterPick.trace = s.trace := by
  rcases s.afterPick_cases with h | h <;> rw [h]
  rfl

end

/-- Settles O36: the delivery agent that is picked takes its edge to the handler. -/
theorem deliveryEntersHandler : Obligations.DeliveryEntersHandler := by
  intro s d u hpick hrole hpend hie hisr hidle hu
  have hdeliverable : (s.inst d).deliverable = true := Inst.deliverable_iff.mpr ⟨hrole, hpend, hisr, hidle, hie⟩
  have hstep : s.afterPick.edgeStep d = s.afterPick.setInst d (s.inst d).enterHandler := by
    simpa using State.edgeStep_delivers (s := s.afterPick) (by simpa using hdeliverable) (by simpa using hu)
  refine ⟨_, (step_of_pick hpick).trans (congrArg Host.Outcome.next hstep), ?_, ?_, ?_, ?_⟩
  · exact State.inst_setInst _ _ _
  · rw [State.inst_other_setInst, State.afterPick_inst]
  · rw [State.setInst_now, State.afterPick_now]
  · rw [State.setInst_trace, State.afterPick_trace]

/-! ### O37: nothing else enters the handler -/

section
variable {s t : State} {m : Micro} {c : ContextId} {d : Side} {a : Agent} {i : Inst}

/-- No zero-time step of a context sets IN_ISR. -/
theorem Writes.inIsr_of_inIsr (h : Writes s m i) : i.inIsr = true → s.self.inIsr = true := by
  cases h with
  | handlerReturn => exact nofun
  | _ => exact id

theorem runMicro_inIsr (h : runMicro m s = .next t) (ht : (t.inst s.cur.side).inIsr = true) : s.self.inIsr = true := by
  obtain ⟨i, hwrites, heffect⟩ := runMicro_microEffect h
  have hself : SameButControl i (t.inst s.cur.side) := by
    rw [← heffect.globals.cur_eq]
    exact heffect.self
  rw [hself] at ht
  exact hwrites.inIsr_of_inIsr ht

theorem State.finish_inIsr (s : State) : (s.finish.inst s.cur.side).inIsr = s.self.inIsr := by
  rcases s.finish_cases with h | ⟨-, h⟩ <;> rw [h]
  · rfl
  · simp [State.setStatus, State.setCtx, State.self]

theorem State.refuse_inIsr (s : State) (code : FaultCode) :
    ((s.refuse code).inst s.cur.side).inIsr = s.self.inIsr := by
  have h := s.refuse_spec code
  rw [← h.globals.cur_eq, ← State.self, h.self]
  simp

theorem State.hostStore_inIsr (s : State) (k : Nat) (v : Byte) :
    ((s.hostStore k v).inst s.cur.side).inIsr = s.self.inIsr := by
  rcases s.hostStore_cases k v with h | ⟨code, h⟩ | ⟨e, b, -, h⟩ <;> rw [h]
  · rfl
  · exact s.refuse_inIsr code
  · simp

theorem runContext_inIsr (h : runContext c s = .next t) (ht : (t.inst c.side).inIsr = true) :
    (s.inst c.side).inIsr = true := by
  rcases runContext_cases h with ⟨-, rfl⟩ | ⟨m, ms, u, -, hu, rfl⟩
  · rwa [State.setCtx_withCur_inst, Inst.setCtx_inIsr] at ht
  · have hcur : u.cur = c := runMicro_cur hu
    have hfinish : (u.finish.inst c.side).inIsr = (u.inst c.side).inIsr := hcur ▸ u.finish_inIsr
    rw [← s.running_inIsr c ms]
    exact runMicro_inIsr hu (hfinish ▸ ht)

theorem issueHost_inIsr (h : issueHost d s = .next t) (ht : (t.inst d).inIsr = true) : (s.inst d).inIsr = true := by
  rcases issueHost_cases h with ⟨script, rfl⟩ | ⟨script, k, v, rfl⟩ | ⟨o, script, ho⟩ | ⟨op, script, code, rfl⟩
  · rwa [State.inst_setInst] at ht
  · rw [← s.issue_inIsr d 0 script, ← State.hostStore_inIsr _ k v]
    exact ht
  · rw [← s.issue_inIsr d o.opcode script]
    exact runMicro_inIsr (m := .op o) ho ht
  · rw [← s.issue_inIsr d op script, ← State.refuse_inIsr _ code]
    exact ht

theorem State.resetInst_inIsr (s : State) (d : Side) : ((s.resetInst d).inst d).inIsr = false := by
  unfold State.resetInst
  rw [(State.detectBoth_spec _ _ _).inst d, State.inst_setInst]
  rfl

/-- The one step of an agent that sets IN_ISR is the delivery of a deliverable edge. -/
theorem runAgent_enters_handler (h : runAgent a s = .next t) (hs : (s.inst d).inIsr = false)
    (ht : (t.inst d).inIsr = true) : (s.inst d).deliverable = true := by
  have hkept (hback : (s.inst d).inIsr = true) : (s.inst d).deliverable = true := absurd hback (by simp [hs])
  by_cases hside : a.side = d
  · subst hside
    cases a with
    | context c =>
      simp only [runAgent] at h
      split at h
      · exact hkept (issueHost_inIsr h ht)
      · exact hkept (runContext_inIsr h ht)
    | edge e =>
      cases h
      rcases s.edgeStep_cases e with ⟨hdeliverable, -⟩ | ⟨u, time, -, hstep⟩
      · exact hdeliverable
      · rw [Agent.side, hstep, State.inst_setInst] at ht
        exact hkept ht
    | reset e =>
      cases h
      exact absurd ht (by simp [Agent.side, State.resetInst_inIsr])
  · have hpartner := runAgent_partner h
    rw [← Side.eq_other_of_ne (Ne.symm hside)] at hpartner
    rw [hpartner] at ht
    exact hkept ht

end

/-- Settles O37: of the agents only the delivery sets IN_ISR, and time sets nothing. -/
theorem onlyDeliveryEntersHandler : Obligations.OnlyDeliveryEntersHandler := by
  intro s t d h hs ht
  rcases step_cases h with ⟨a, -, hrun⟩ | ⟨n, -, rfl⟩
  · have hdeliverable := runAgent_enters_handler hrun (by simpa using hs) ht
    rw [State.afterPick_inst] at hdeliverable
    obtain ⟨hrole, hpend, -, hidle, hie⟩ := Inst.deliverable_iff.mp hdeliverable
    exact ⟨hrole, hpend, hie, hidle⟩
  · exact absurd (ht.symm.trans (congrArg Inst.inIsr (s.advanceTo_inst n d))) (by simp [hs])

/-! ### O34 and O38: the flags, and the return from the handler -/

theorem exec_irqon {s : State} {saved : Bool} (h : s.self.ieSaved = some saved) :
    exec .irqon s = .next (s.setSelf (s.self.restoreIrq saved)) := by simp [exec, execIrqon, h]

/-- Settles O34: each operation writes its flags, and IRQON's read of an unwritten IE_SAVED is refused. -/
theorem edgeAndMaskOperations : Obligations.EdgeAndMaskOperations :=
  ⟨rfl, rfl, rfl, rfl, fun _ => ⟨rfl, rfl, rfl, fun _ => exec_irqon, State.withReg_refused _⟩⟩

section
variable {x : Context}

theorem Context.resume_code (x : Context) : x.resume.code = x.code := by
  unfold Context.resume
  split <;> rfl

theorem Context.resume_opcode (x : Context) : x.resume.opcode = x.opcode := by
  unfold Context.resume
  split <;> rfl

/-- An interrupted poll is taken at once (R561). -/
theorem Context.resume_status_of_polling {u : Nat} (h : x.status = .polling u) : x.resume.status = .ready := by
  simp [Context.resume, h]

theorem Context.resume_of_not_polling (h : ∀ u, x.status ≠ .polling u) : x.resume = x := by
  unfold Context.resume
  split
  · next u hu => exact absurd hu (h u)
  · rfl

end

/-- Settles O38: the return writes the handler's flags and contexts, and resumes the host. -/
theorem handlerReturnEffect : Obligations.HandlerReturnEffect := by
  intro s
  refine ⟨s.setSelf s.self.leaveHandler, rfl, ?_⟩
  rw [State.self_setSelf]
  exact ⟨rfl, Context.resume_code _, Context.resume_opcode _, fun _ => Context.resume_status_of_polling,
    fun h => congrArg Context.status (Context.resume_of_not_polling h)⟩

end Sys2Proof.Machine
end

section
/-! PROOFS of the obligations about single operations of the initiator (46_initiator.md): TXN's checks, the engine's
store, and INITI, whose two port operations are one port write (`State.writeOlat_writeDir_spec`). -/

namespace Sys2Proof.Machine

/-! ### O43: TXN's checks -/

section
variable {s : State} {e : Descriptor}

theorem exec_txn_unset (hrole : s.self.role = .unset) : exec .txn s = .next (s.refuse .useBeforeInit) := by
  simp [exec, execTxn, hrole]

theorem exec_txn_target (hrole : s.self.role = .target) : exec .txn s = .next (s.refuse .roleViolation) := by
  simp [exec, execTxn, hrole]

theorem exec_txn_no_descriptor (hrole : s.self.role = .initiator) (hdesc : s.self.desc = none) :
    exec .txn s = .next (s.refuse .noDescriptor) := by simp [exec, execTxn, hrole, State.withDesc, hdesc]

theorem exec_txn (hrole : s.self.role = .initiator) (hdesc : s.self.desc = some e) :
    exec .txn s = .next (s.load txnCode) := by simp [exec, execTxn, hrole, State.withDesc, hdesc]

end

/-- Settles O43: each check that fails refuses before any effect, and TXN that passes them loads its sequence. -/
theorem txnChecksAndStart : Obligations.TxnChecksAndStart := fun s =>
  ⟨fun hrole => ⟨_, exec_txn_unset hrole, s.refuse_spec _⟩, fun hrole => ⟨_, exec_txn_target hrole, s.refuse_spec _⟩,
    fun hrole hdesc => ⟨_, exec_txn_no_descriptor hrole hdesc, s.refuse_spec _⟩, fun _ => exec_txn⟩

/-! ### O46: the engine's store -/

section
variable {s : State} {n : Nat} {v : Byte} {e : Descriptor}

theorem State.storeRes_eq (hidx : s.self.idx = some n) (hres : s.self.res = some v) : s.storeRes = s.memWrite n v := by
  simp [State.storeRes, hidx, hres]

theorem Buffer.write_of_lt {b : Buffer} (h : n < b.len) (v : Byte) : ∃ b', b.write n v = some b' := ⟨_, if_pos h⟩

theorem State.memWrite_of_write {b : Buffer} (hdesc : s.self.desc = some e)
    (hwrite : (s.self.buffer e.t2i).write n v = some b) :
    s.memWrite n v = s.setSelf (s.self.setBuffer e.t2i b) := by simp [State.memWrite, State.withDesc, hdesc, hwrite]

theorem State.memWrite_of_le (hdesc : s.self.desc = some e) (h : (s.self.buffer e.t2i).len ≤ n) :
    s.memWrite n v = s.refuse .badIndex := by
  have hwrite : (s.self.buffer e.t2i).write n v = none := if_neg (Nat.not_lt.mpr h)
  simp [State.memWrite, State.withDesc, hdesc, hwrite]

end

/-- Settles O46: the store writes one byte of the selected buffer, or is refused past its end. -/
theorem engineStore : Obligations.EngineStore := by
  intro s i v e hs hidx hres hdesc
  have hstore : runMicro .storeRes s = .next (s.memWrite i v) :=
    congrArg Host.Outcome.next (State.storeRes_eq hidx hres)
  refine ⟨fun hlt => ⟨_, hstore, ?_⟩, fun hle => ⟨_, hstore, ?_⟩⟩
  · obtain ⟨b, hwrite⟩ := Buffer.write_of_lt hlt v
    rw [State.memWrite_of_write hdesc hwrite, State.self_setSelf]
    exact ⟨Inst.byteAt_setBuffer hwrite (Inst.buffer_wf hs.self.buffersLegal e.t2i), rfl⟩
  · rw [State.memWrite_of_le hdesc hle]
    exact s.refuse_spec _

/-! ### O40: INITI on a fresh controller -/

section
variable {s t u : State} {dir : Dir} {olat : Bool} {d : Side}

/-- A disabled detector latches nothing of a port write (R380). -/
theorem State.writePort_sameDetector (h : (s.inst d).edgeEn = false) : SameDetector s (s.writePort dir olat) d := by
  have hmid := s.portMid_sameDetector dir olat d
  have hspec := (s.portMid dir olat).detectBoth_spec s.line
    (s.setSelf { s.self with dir := dir, olat := olat }).line
  rw [← State.writePort_eq] at hspec
  have hinst := hspec.disabled d (hmid.edgeEn.trans h)
  exact hmid.trans ⟨congrArg _ hinst, congrArg _ hinst, congrArg _ hinst, hspec.globals.now_eq, hspec.globals.params_eq⟩

theorem PortWritten.opcode_eq (h : PortWritten s t dir olat) : t.opcode = s.opcode := by
  have hctx : t.self.ctx s.cur.kind = s.self.ctx s.cur.kind := by
    rw [h.self.ctx_eq]
    cases s.cur.kind <;> rfl
  have hown : t.opcode = (t.self.ctx s.cur.kind).opcode := by rw [← h.globals.cur_eq]; rfl
  rw [hown, hctx]
  rfl

/-- A port write after one that left the line as it was is one port write. -/
theorem PortWritten.trans {dir' : Dir} {olat' : Bool} (h : PortWritten s t dir olat) (hline : t.line = s.line)
    (h' : PortWritten t u dir' olat') : PortWritten s u dir' olat' := by
  have hself := h.self
  have htrace := h.trace
  have hself' := h'.self
  have hpartner' := h'.partner
  have htrace' := h'.trace
  obtain ⟨hnow, hparams, hcur⟩ := h.globals
  simp only [hline, ne_eq, not_and_self, if_false, List.append_nil] at hself htrace
  rw [hcur] at hpartner'
  rw [hline, hself] at hself'
  rw [hline, htrace, hcur, hnow, h.opcode_eq] at htrace'
  exact ⟨⟨h'.globals.now_eq.trans hnow, h'.globals.params_eq.trans hparams, h'.globals.cur_eq.trans hcur⟩, hself',
    h.partner.trans hpartner', htrace'⟩

/-- A write of the latch and then a turn to output are one port write: of an input, the first is not on the line; of an
output, the second writes what the port holds. -/
theorem State.writeOlat_writeDir_spec (s : State) (olat : Bool) :
    PortWritten s ((s.writeOlat olat).writeDir .output) .output olat := by
  have hlatch : PortWritten s (s.writeOlat olat) s.self.dir olat := s.writePort_spec _ _
  cases hdir : s.self.dir with
  | output =>
    have hkept := (s.writeOlat olat).writePort_unchanged
    rw [hlatch.self_dir, hdir] at hkept
    rw [State.writeDir, hkept]
    exact hdir ▸ hlatch
  | input =>
    have hturn := (s.writeOlat olat).writePort_spec .output (s.writeOlat olat).self.olat
    rw [hlatch.self_olat] at hturn
    rw [State.writeDir, hlatch.self_olat]
    exact hlatch.trans (hlatch.line_of_input hdir) hturn

/-- A port that comes to drive 1 makes the line contended where the partner drives 0, unless it drove 1 before. -/
theorem PortWritten.contends_high_iff (h : PortWritten s t .output true) :
    s.line ≠ .contended ∧ t.line = .contended ↔
      (s.inst s.cur.side.other).dir = .output ∧ (s.inst s.cur.side.other).olat = false ∧
        ¬ (s.self.dir = .output ∧ s.self.olat = true) := by
  rw [ne_eq, State.line_eq_contended_iff_olat_ne, State.line_eq_contended_iff, h.driven_iff, h.driven_iff]
  unfold Inst.Drives
  cases s.self.olat <;> cases (s.inst s.cur.side.other).olat <;> simp
  tauto

/-- INITI's writes before its port operations: the table, and no edge detection (R410). -/
def State.withTable (s : State) : State := s.setSelf { s.self.disableEdges with table := some s.self.argTable }

/-- The state in which INITI's port drives high (R410). -/
def State.initiDriven (s : State) : State := (s.withTable.writeOlat true).writeDir .output

theorem exec_initi (hrole : s.self.role = .unset) :
    exec .initi s =
      .next (s.initiDriven.setSelf { s.initiDriven.self with role := .initiator, st := .iIdle }) := by
  simp [exec, execIniti, hrole, State.initiDriven, State.withTable]

@[simp] theorem State.withTable_self (s : State) :
    s.withTable.self = { s.self.disableEdges with table := some s.self.argTable } := s.self_setSelf _

@[simp] theorem State.withTable_cur (s : State) : s.withTable.cur = s.cur := s.setSelf_cur _

@[simp] theorem State.withTable_trace (s : State) : s.withTable.trace = s.trace := s.setSelf_trace _

@[simp] theorem State.withTable_partner (s : State) :
    s.withTable.inst s.cur.side.other = s.inst s.cur.side.other := s.setSelf_other _

theorem State.initiDriven_spec (s : State) : PortWritten s.withTable s.initiDriven .output true :=
  s.withTable.writeOlat_writeDir_spec true

/-- Detection is off while INITI writes the port, so no edge is pending after it (R410). -/
theorem State.initiDriven_edges (s : State) :
    s.initiDriven.self.edgePend = false ∧ s.initiDriven.self.edgeFall = none := by
  have hown : s.withTable.inst s.cur.side = s.withTable.self := by rw [State.self, State.withTable_cur]
  have hoff : (s.withTable.inst s.cur.side).edgeEn = false := by simp [hown, Inst.disableEdges]
  have hlatch : SameDetector s.withTable (s.withTable.writeOlat true) s.cur.side := State.writePort_sameDetector hoff
  have hturn : SameDetector s.withTable s.initiDriven s.cur.side :=
    hlatch.trans (State.writePort_sameDetector (hlatch.edgeEn.trans hoff))
  have hself : s.initiDriven.self = s.initiDriven.inst s.cur.side := by
    rw [State.self, s.initiDriven_spec.globals.cur_eq, State.withTable_cur]
  rw [hself, hturn.edgePend, hturn.edgeFall, hown]
  simp [Inst.disableEdges]

end

/-- Settles O40: INITI's two port operations are one port write, with the table written before and the role after. -/
theorem initiEffect : Obligations.InitiEffect := by
  intro s hrole
  obtain ⟨hglobals, hself, hpartner, htrace⟩ := s.initiDriven_spec
  obtain ⟨hpend, hfall⟩ := s.initiDriven_edges
  have hcontends := s.initiDriven_spec.contends_high_iff
  have hcur : s.initiDriven.cur = s.cur := hglobals.cur_eq.trans s.withTable_cur
  refine ⟨_, exec_initi hrole, ?_, ?_, ?_, ?_⟩
  · simpa [SameGlobals, State.withTable] using hglobals
  · rw [← hcur, State.setSelf_other, hcur]
    simpa using hpartner
  · rw [State.self_setSelf, hself, hpend, hfall]
    simp [hcontends, Inst.disableEdges]
  · rw [State.setSelf_trace, htrace]
    simp [hcontends, Inst.disableEdges]

end Sys2Proof.Machine
end

section
/-! PROOF of the obligation about TXN under noise (46_initiator.md R412, R415, R416). A transaction on a line that nobody
else drives is a run of the framer's kind (`State.RunsAt`), of which two things more are followed: what was issued leads
to it, and it recorded no fault (`State.RunsClean`). One rule per zero-time step goes on to the next such state; the
parts of R412 are these rules one after the other. What the loop keeps of the registers and of the buffer is
`Inst.Received`. -/

namespace Sys2Proof.Machine

/-! ### Writes of a controller's own fields -/

/-- The controller `i` with the control state of `j`. -/
def Inst.withControlOf (i j : Inst) : Inst :=
  { i with
    edgePend := j.edgePend, edgeFall := j.edgeFall, faults := j.faults
    ordinary := j.ordinary, interrupt := j.interrupt }

/-- `f` writes fields of a controller that are not control state, and reads none that are. -/
def KeepsControl (f : Inst → Inst) : Prop := ∀ i j : Inst, f (i.withControlOf j) = (f i).withControlOf j

section
variable {i j : Inst} {f : Inst → Inst}

theorem sameButControl_iff : SameButControl i j ↔ j = i.withControlOf j := Iff.rfl

theorem KeepsControl.sameButControl (hf : KeepsControl f) (h : SameButControl i j) : SameButControl (f i) (f j) := by
  rw [sameButControl_iff] at h ⊢
  rw [h, hf]
  rfl

theorem KeepsControl.ordinary_eq (hf : KeepsControl f) (i : Inst) : (f i).ordinary = i.ordinary := by
  have hkept : f i = (f i).withControlOf i := hf i i
  rw [hkept]
  rfl

theorem SameButControl.sum_eq (h : SameButControl i j) : j.sum = i.sum := by rw [h]

theorem SameButControl.ck_eq (h : SameButControl i j) : j.ck = i.ck := by rw [h]

theorem SameButControl.matchFlag_eq (h : SameButControl i j) : j.matchFlag = i.matchFlag := by rw [h]

theorem SameButControl.idx_eq (h : SameButControl i j) : j.idx = i.idx := by rw [h]

theorem SameButControl.ieSaved_eq (h : SameButControl i j) : j.ieSaved = i.ieSaved := by rw [h]

theorem SameButControl.desc_eq (h : SameButControl i j) : j.desc = i.desc := by rw [h]; rfl

theorem SameButControl.buffer_eq (h : SameButControl i j) (b : Nat) : j.buffer b = i.buffer b := by rw [h]; rfl

end

/-! ### A run that records no fault -/

/-- A state of the run of `op`, issued in `o` by the host of `d` alone with a partner whose port is an input, in which
no fault was recorded so far. -/
structure State.RunsClean (o : State) (op : Instr) (s : State) (d : Side) (i : Inst) (u : Nat) (ms : List Micro) : Prop
    extends State.RunsAt o s d i u ms where
  reached : ∃ s1, exec op o = .next s1 ∧ Reaches s1 s
  listens : (o.inst d.other).dir = .input
  trace : s.trace = o.trace

section
variable {o s t : State} {op : Instr} {d : Side} {i j : Inst} {m : Micro} {ms rest : List Micro} {u v w : Nat}
  {p : Instr}

theorem State.finish_trace (s : State) : s.finish.trace = s.trace := by
  rcases s.finish_cases with h | ⟨-, h⟩ <;> simp [h]

theorem State.afterSample_trace (s : State) : s.afterSample.trace = s.trace := by
  rcases s.afterSample_cases with h | h <;> simp [h]

theorem State.afterSample_cur (s : State) : s.afterSample.cur = s.cur := by
  rcases s.afterSample_cases with h | h <;> simp [h]

@[simp] theorem State.turnAt_trace (s : State) (d : Side) (u : Nat) (ms : List Micro) :
    (s.turnAt d u ms).trace = s.trace := State.setCtx_trace _ _ _

theorem State.ctx_setSelf (s : State) (i : Inst) : (s.setSelf i).ctx s.cur = i.ctx s.cur.kind := by simp [State.ctx]

theorem State.RunsClean.goOn (h : o.RunsClean op s d i u ms) (hreach : Reaches s t) (ht : o.RunsAt t d j w rest)
    (htrace : t.trace = s.trace) : o.RunsClean op t d j w rest := by
  obtain ⟨s1, hexec, hreached⟩ := h.reached
  exact ⟨ht, ⟨s1, hexec, hreached.trans hreach⟩, h.listens, htrace.trans h.trace⟩

/-- One step that records no fault. -/
theorem State.RunsClean.take (h : o.RunsClean op s d i u (m :: rest))
    (hrun : runMicro m (s.turnAt d u rest) = .next t) (htrace : t.trace = s.trace) (hself : SameButControl j t.self)
    (hcode : (t.ctx d.host).code = ms) (hgoes : (t.ctx d.host).GoesOn u w)
    (hm : m ≠ .armTarget ∧ m ≠ .handlerReturn := by exact ⟨nofun, nofun⟩) :
    ∃ x, o.RunsClean op x d j w ms ∧ x.env = t.env := by
  obtain ⟨hreach, hnext⟩ := h.toRunsAt.take hm hrun hself hcode hgoes
  exact ⟨_, h.goOn hreach hnext (t.finish_trace.trans htrace), t.finish_env⟩

/-- One step that leaves its context ready, with the steps `ms` to take. -/
theorem State.RunsClean.takeReady (h : o.RunsClean op s d i u (m :: rest))
    (hrun : runMicro m (s.turnAt d u rest) = .next t) (htrace : t.trace = s.trace) (hself : SameButControl j t.self)
    (hctx : t.ctx d.host = { s.ctx d.host with status := .ready, code := ms })
    (hm : m ≠ .armTarget ∧ m ≠ .handlerReturn := by exact ⟨nofun, nofun⟩) :
    ∃ x, o.RunsClean op x d j u ms ∧ x.env = t.env :=
  h.take hrun htrace hself (congrArg Context.code hctx) (.ready (congrArg Context.status hctx) rfl) hm

/-- A step that writes fields of its controller and nothing else. -/
theorem State.RunsClean.write (h : o.RunsClean op s d i u (m :: rest)) {f : Inst → Inst}
    (hrun : ∀ r, o.RunsAlone r d i → runMicro m r = .next (r.setSelf (f r.self)))
    (hf : KeepsControl f := by exact fun _ _ => rfl)
    (hm : m ≠ .armTarget ∧ m ≠ .handlerReturn := by exact ⟨nofun, nofun⟩) :
    ∃ t, o.RunsClean op t d (f i) u rest ∧ t.env = s.env := by
  have halone := h.turnAt rest
  have hctx := (s.turnAt d u rest).ctx_setSelf (f (s.turnAt d u rest).self)
  obtain ⟨t, hnext, henv⟩ := h.takeReady (hrun _ halone) (by simp) (by simpa using hf.sameButControl halone.self)
    ((hctx.trans (hf.ordinary_eq _)).trans (s.turnAt_ctx d u rest)) hm
  exact ⟨t, hnext, henv.trans (by simp)⟩

/-- A step that changes nothing. -/
theorem State.RunsClean.skip (h : o.RunsClean op s d i u (m :: rest))
    (hrun : ∀ r, o.RunsAlone r d i → runMicro m r = .next r)
    (hm : m ≠ .armTarget ∧ m ≠ .handlerReturn := by exact ⟨nofun, nofun⟩) :
    ∃ t, o.RunsClean op t d i u rest ∧ t.env = s.env :=
  h.write (f := id) (fun r hr => by simpa using hrun r hr) (fun _ _ => rfl) hm

/-- A composite or a loop's head puts the steps `ms` before the rest of its sequence (R187). -/
theorem State.RunsClean.expand (h : o.RunsClean op s d i u (m :: rest))
    (hrun : ∀ r, o.RunsAlone r d i → runMicro m r = .next (r.load ms))
    (hm : m ≠ .armTarget ∧ m ≠ .handlerReturn := by exact ⟨nofun, nofun⟩) :
    ∃ t, o.RunsClean op t d i u (ms ++ rest) ∧ t.env = s.env := by
  have halone := h.turnAt rest
  have hctx := (s.turnAt d u rest).ctx_load ms
  rw [State.turnAt_cur, State.turnAt_ctx] at hctx
  obtain ⟨t, hnext, henv⟩ := h.takeReady (hrun _ halone) (by simp) (halone.self.load ms) hctx hm
  exact ⟨t, hnext, henv.trans (by simp)⟩

/-- A jump goes on with the steps `ms` instead of the rest of its sequence (R412). -/
theorem State.RunsClean.jump (h : o.RunsClean op s d i u (m :: rest))
    (hrun : ∀ r, o.RunsAlone r d i → runMicro m r = .next (r.goto ms))
    (hm : m ≠ .armTarget ∧ m ≠ .handlerReturn := by exact ⟨nofun, nofun⟩) :
    ∃ t, o.RunsClean op t d i u ms ∧ t.env = s.env := by
  have halone := h.turnAt rest
  have hctx := (s.turnAt d u rest).ctx_goto ms
  rw [State.turnAt_cur, State.turnAt_ctx] at hctx
  have hself : SameButControl i ((s.turnAt d u rest).goto ms).self := by
    rw [State.self_goto]
    exact halone.self.trans (Inst.sameButControl_setCtx _ _ _)
  obtain ⟨t, hnext, henv⟩ := h.takeReady (hrun _ halone) (by simp) hself hctx hm
  exact ⟨t, hnext, henv.trans (by simp)⟩

/-- A port write that no partner contends with records nothing (R231). -/
theorem State.writePort_trace_of_listening {dir : Dir} {olat : Bool} (h : (s.inst s.cur.side.other).dir = .input) :
    (s.writePort dir olat).trace = s.trace := by
  by_contra hne
  simp [State.writePort_trace_ne_iff_olat, h] at hne

theorem State.RunsAlone.partner_dir (h : o.RunsAlone s d i) :
    (s.inst s.cur.side.other).dir = (o.inst d.other).dir := by
  have hpartner : s.inst s.cur.side.other = s.inst d.other := by rw [h.cur]; rfl
  rw [hpartner, h.partner]

/-- A step that writes the port (R233 to R236). -/
theorem State.RunsClean.port (h : o.RunsClean op s d i u (.op p :: rest)) (dir : Dir) (olat : Bool)
    (hexec : ∀ r, SameButControl i r.self → exec p r = .next (r.writePort dir olat)) :
    ∃ t, o.RunsClean op t d { i with dir := dir, olat := olat } u rest ∧
      ((∀ e, (s.inst e).edgeEn = false) → t.env = s.env) := by
  have halone := h.turnAt rest
  have hctx := (s.turnAt d u rest).ctx_writePort dir olat
  rw [State.turnAt_cur, State.turnAt_ctx] at hctx
  have htrace : ((s.turnAt d u rest).writePort dir olat).trace = s.trace :=
    (State.writePort_trace_of_listening (halone.partner_dir.trans h.listens)).trans (by simp)
  obtain ⟨t, hnext, henv⟩ := h.takeReady (hexec _ halone.self) htrace (halone.self.writePort dir olat) hctx
  refine ⟨t, hnext, fun hoff => ?_⟩
  rw [henv, State.writePort_env, State.turnAt_env]
  exact fun e => (s.turnAt_edgeEn d u rest e).trans (hoff e)

theorem State.RunsClean.setDir (h : o.RunsClean op s d i u (.op p :: rest)) (dir : Dir)
    (hexec : ∀ r, exec p r = .next (r.writeDir dir)) :
    ∃ t, o.RunsClean op t d { i with dir := dir } u rest ∧ ((∀ e, (s.inst e).edgeEn = false) → t.env = s.env) :=
  h.port dir i.olat fun r hr => by rw [hexec, State.writeDir, hr.olat_eq]

theorem State.RunsClean.setOlat (h : o.RunsClean op s d i u (.op p :: rest)) (olat : Bool)
    (hexec : ∀ r, exec p r = .next (r.writeOlat olat)) :
    ∃ t, o.RunsClean op t d { i with olat := olat } u rest ∧ ((∀ e, (s.inst e).edgeEn = false) → t.env = s.env) :=
  h.port i.dir olat fun r hr => by rw [hexec, State.writeOlat, hr.dir_eq]

/-- DELAY: the sequence goes on after the parameter's time and one draw (R262). -/
theorem State.RunsClean.delay {sel : BitVec 4} (h : o.RunsClean op s d i u (.op (.delay sel) :: rest))
    (hparam : param o.params sel = some v) :
    ∃ t w, o.RunsClean op t d i w rest ∧ t.env = s.afterDraw.env ∧ u + v ≤ w ∧ w ≤ u + v + o.params.jDelay := by
  have halone := h.turnAt rest
  have hdraw := drawUpTo_le o.params.jDelay (s.turnAt d u rest).drawn
  have hsleep := (s.turnAt d u rest).sleep_eq v
  rw [State.turnAt_cur, State.turnAt_ctx, State.turnAt_now, halone.params] at hsleep
  obtain ⟨t, hnext, henv⟩ := h.take (j := i) (ms := rest)
    (w := u + v + drawUpTo o.params.jDelay (s.turnAt d u rest).drawn) (exec_delay (halone.params.symm ▸ hparam))
    (by simp [hsleep]) (halone.self.trans (Effect.sleep True _ v).self) (by simp [hsleep])
    (.waiting (.inl (by simp [hsleep])) (by omega))
  exact ⟨t, _, hnext, henv.trans (by simp [hsleep, State.afterDraw]), by omega, by omega⟩

/-- WAITH of an input returns at its first poll: nobody drives the line (R264). -/
theorem State.RunsClean.waith (h : o.RunsClean op s d i u (.op .waith :: m :: rest)) (hdir : i.dir = .input) :
    ∃ t, o.RunsClean op t d i u (m :: rest) := by
  have hhigh : s.line = .high := (h.line_of_input hdir).2.mpr (by simp [h.listens])
  exact ⟨_, h.goOn (h.alone.reaches_waith_high hhigh h.code h.goesOn)
    ⟨h.turnAt _, by simp, .ready (by simp) (by simp)⟩ (s.turnAt_trace d u _)⟩

/-- An operation completes where its run comes to have nothing left to do. -/
theorem State.RunsClean.completes {post : State → Prop} (h : o.RunsClean op s d i u []) (hissue : o.Issuing d)
    (hpost : ∀ x, o.RunsAlone x d i → x.trace = o.trace → post x) : Completes op o post := by
  obtain ⟨s1, hexec, hreach⟩ := h.reached
  obtain ⟨x, hend, halone, htrace, hidle, hdone⟩ : ∃ x, Reaches s x ∧ o.RunsAlone x d i ∧ x.trace = o.trace ∧
      (x.ctx d.host).status = .idle ∧ (x.ctx d.host).code = [] := by
    by_cases hbusy : (s.ctx d.host).status = .idle
    · exact ⟨s, .refl s, h.toRunsAlone, h.trace, hbusy, h.code⟩
    · have hrun := runContext_nil (s := s.advanceTo u) (c := d.host) (by simpa using h.code)
      exact ⟨_, h.reaches hbusy hrun, (h.toRunsAlone.advanceTo u).turn _, (State.setCtx_trace _ _ _).trans h.trace,
        by simp, by simp [h.code]⟩
  exact ⟨s1, x, hexec, hreach.trans hend, hissue.cur_eq ▸ hidle, hissue.cur_eq ▸ hdone, hpost x halone htrace⟩

end

/-! ### One rule per line of R412 -/

section
variable {o s : State} {op : Instr} {d : Side} {i : Inst} {rest : List Micro} {u n : Nat} {a x y : Byte}
  {e : Descriptor}

theorem State.RunsClean.setSt {st : EngineState} (h : o.RunsClean op s d i u (.setSt st :: rest)) :
    ∃ t, o.RunsClean op t d { i with st := st } u rest ∧ t.env = s.env :=
  h.write (f := fun k => { k with st := st }) fun _ _ => rfl

theorem State.RunsClean.irqoff (h : o.RunsClean op s d i u (.op .irqoff :: rest)) :
    ∃ t, o.RunsClean op t d i.maskIrq u rest ∧ t.env = s.env := h.write fun _ _ => rfl

theorem State.RunsClean.irqon {saved : Bool} (h : o.RunsClean op s d i u (.op .irqon :: rest))
    (hsaved : i.ieSaved = some saved) : ∃ t, o.RunsClean op t d (i.restoreIrq saved) u rest ∧ t.env = s.env :=
  h.write (f := (·.restoreIrq saved)) fun _ hr => exec_irqon (hr.self.ieSaved_eq.trans hsaved)

theorem State.RunsClean.setOutcome {out : TxnOutcome} (h : o.RunsClean op s d i u (.setOutcome out :: rest)) :
    ∃ t, o.RunsClean op t d { i with outc := some out.code } u rest ∧ t.env = s.env :=
  h.write (f := fun k => { k with outc := some out.code }) fun _ _ => rfl

theorem State.RunsClean.ckclr (h : o.RunsClean op s d i u (.op .ckclr :: rest)) :
    ∃ t, o.RunsClean op t d { i with sum := some 0 } u rest ∧ t.env = s.env :=
  h.write (f := fun k => { k with sum := some 0 }) fun _ _ => rfl

theorem State.RunsClean.ckaddr (h : o.RunsClean op s d i u (.op .ckaddr :: rest)) (hsum : i.sum = some x)
    (hres : i.res = some y) : ∃ t, o.RunsClean op t d { i with sum := some (sumAdd x y) } u rest ∧ t.env = s.env :=
  h.write (f := fun k => { k with sum := some (sumAdd x y) }) fun _ hr =>
    exec_ckaddr (hr.self.sum_eq.trans hsum) (hr.self.res_eq.trans hres)

theorem State.RunsClean.ckfold (h : o.RunsClean op s d i u (.op .ckfold :: rest)) (hsum : i.sum = some x) :
    ∃ t, o.RunsClean op t d { i with ck := some (fold x) } u rest ∧ t.env = s.env :=
  h.write (f := fun k => { k with ck := some (fold x) }) fun _ hr => exec_ckfold (hr.self.sum_eq.trans hsum)

theorem State.RunsClean.ckcmp (h : o.RunsClean op s d i u (.op .ckcmp :: rest)) (hck : i.ck = some x)
    (hres : i.res = some y) :
    ∃ t, o.RunsClean op t d { i with matchFlag := some (matches8 x y) } u rest ∧ t.env = s.env :=
  h.write (f := fun k => { k with matchFlag := some (matches8 x y) }) fun _ hr =>
    exec_ckcmp (hr.self.ck_eq.trans hck) (hr.self.res_eq.trans hres)

theorem State.RunsClean.idxClear (h : o.RunsClean op s d i u (.idxClear :: rest)) :
    ∃ t, o.RunsClean op t d { i with idx := some 0 } u rest ∧ t.env = s.env :=
  h.write (f := fun k => { k with idx := some 0 }) fun _ _ => rfl

theorem State.RunsClean.idxNext (h : o.RunsClean op s d i u (.idxNext :: rest)) (hidx : i.idx = some n) :
    ∃ t, o.RunsClean op t d { i with idx := some (idxSucc o.params n) } u rest ∧ t.env = s.env :=
  h.write (f := fun k => { k with idx := some (idxSucc o.params n) }) fun r hr => by
    simp [runMicro, State.idxNext, hr.self.idx_eq, hidx, hr.params]

theorem State.RunsClean.storeRes {b : Buffer} (h : o.RunsClean op s d i u (.storeRes :: rest)) (hidx : i.idx = some n)
    (hres : i.res = some x) (hdesc : i.desc = some e) (hwrite : (i.buffer e.t2i).write n x = some b) :
    ∃ t, o.RunsClean op t d (i.setBuffer e.t2i b) u rest ∧ t.env = s.env :=
  h.write (f := (·.setBuffer e.t2i b)) fun r hr => by
    rw [runMicro, State.storeRes_eq (hr.self.idx_eq.trans hidx) (hr.self.res_eq.trans hres),
      State.memWrite_of_write (hr.self.desc_eq.trans hdesc) (hr.self.buffer_eq _ ▸ hwrite)]

theorem State.RunsClean.accClear (h : o.RunsClean op s d i u (.accClear :: rest)) :
    ∃ t, o.RunsClean op t d { i with acc := some 0 } u rest ∧ t.env = s.env :=
  h.write (f := fun k => { k with acc := some 0 }) fun _ _ => rfl

theorem State.RunsClean.accToRes (h : o.RunsClean op s d i u (.accToRes :: rest)) (hacc : i.acc = some a) :
    ∃ t, o.RunsClean op t d { i with res := some a } u rest ∧ t.env = s.env :=
  h.write (f := fun k => { k with res := some a }) fun r hr => by simp [runMicro, hr.self.acc_eq, hacc]

/-- RDLVL: the sample of the state goes into RES (R238). -/
theorem State.RunsClean.rdlvl (h : o.RunsClean op s d i u (.op .rdlvl :: rest)) :
    ∃ t, o.RunsClean op t d { i with res := some (zext8 s.sample) } u rest := by
  obtain ⟨hsample, -⟩ :=
    State.sample_congr (s.turnAt_line d u rest) (s.turnAt_params d u rest) (s.turnAt_env d u rest)
  have hctx := (s.turnAt d u rest).afterSample.ctx_setSelf
    { (s.turnAt d u rest).self with res := some (zext8 s.sample) }
  rw [State.afterSample_cur, State.turnAt_cur] at hctx
  obtain ⟨t, hnext, -⟩ := h.takeReady (j := { i with res := some (zext8 s.sample) }) (hsample ▸ rfl)
    (by simp [State.afterSample_trace]) (by simpa using (h.turnAt rest).self.setRes _)
    (hctx.trans (s.turnAt_ctx d u rest))
  exact ⟨t, hnext⟩

/-- RDBIT leaves some byte in ACC (R321). -/
theorem State.RunsClean.rdbit (h : o.RunsClean op s d i u (.op .rdbit :: rest)) (hacc : i.acc = some a) :
    ∃ t w b, o.RunsClean op t d { i with acc := some b } w rest := by
  have halone := h.turnAt rest
  obtain ⟨x, hexec, hself, hctx, -⟩ := halone.rdbit hacc
  have htrace : x.trace = s.trace := by
    cases hexec.symm.trans (exec_rdbit (halone.self.acc_eq.trans hacc))
    simp [State.shiftSample, State.afterSample_trace]
  rw [State.turnAt_ctx] at hctx
  obtain ⟨y, hshifted, -⟩ := h.takeReady hexec htrace hself hctx
  obtain ⟨t, w, hnext, -⟩ := hshifted.delay (v := o.params.tRxBit) rfl
  exact ⟨t, w, _, hnext⟩

theorem State.RunsClean.rdbits (h : o.RunsClean op s d i u (List.replicate n (.op .rdbit) ++ rest))
    (hacc : i.acc = some a) : ∃ t w b, o.RunsClean op t d { i with acc := some b } w rest := by
  induction n generalizing s i u a with
  | zero => exact ⟨s, u, a, by simpa [← hacc] using h⟩
  | succ n ih =>
    obtain ⟨_, _, _, hbit⟩ := State.RunsClean.rdbit h hacc
    obtain ⟨t, w, b, hbits⟩ := ih hbit rfl
    exact ⟨t, w, b, hbits⟩

/-- RDBYTE leaves some byte in RES and in ACC, and the port an input (R323). -/
theorem State.RunsClean.rdbyte (h : o.RunsClean op s d i u (.op .rdbyte :: rest)) :
    ∃ t w c, o.RunsClean op t d { i with dir := .input, acc := some c, res := some c } w rest := by
  obtain ⟨_, hcode, -⟩ := h.expand (ms := rdbyteCode) fun _ _ => rfl
  obtain ⟨_, hin, -⟩ := hcode.setDir .input fun _ => rfl
  obtain ⟨_, hclear, -⟩ := State.RunsClean.accClear hin
  obtain ⟨_, w, c, hbits⟩ := State.RunsClean.rdbits (n := 8) (rest := .accToRes :: rest) hclear rfl
  obtain ⟨t, hres, -⟩ := hbits.accToRes rfl
  exact ⟨t, w, c, hres⟩

/-- RSYNC returns on a line that nobody drives, and leaves the port an input (R291). -/
theorem State.RunsClean.rsync (h : o.RunsClean op s d i u (.op .rsync :: rest)) :
    ∃ t w, o.RunsClean op t d { i with dir := .input } w rest := by
  obtain ⟨_, hcode, -⟩ := h.expand (ms := rsyncCode) fun _ _ => rfl
  obtain ⟨_, hin, -⟩ := hcode.setDir .input fun _ => rfl
  obtain ⟨_, hhigh⟩ := hin.waith rfl
  obtain ⟨t, w, hhalf, -⟩ := hhigh.delay (v := o.params.tHalf) rfl
  exact ⟨t, w, hhalf⟩

end

/-! ### The received bytes -/

/-- What the first `k` bytes that TXN receives make of a controller that was `o` at the call: they are the first `k` of
the buffer that `e` selects, and SUM is their sum; the other buffers, the table and the saved IE are as they were. -/
structure Inst.Received (o : Inst) (e : Descriptor) (k : Nat) (i : Inst) : Prop where
  table : i.table = o.table
  named : e.t2i < i.buffers.length
  others : ∀ n, n ≠ e.t2i → i.buffer n = o.buffer n
  len : (i.buffer e.t2i).len = (o.buffer e.t2i).len
  wf : (i.buffer e.t2i).wf = true
  ieSaved : i.ieSaved = some o.ie
  idx : i.idx = some k
  sum : i.sum = some (sumBytes ((i.buffer e.t2i).bytes.take k))

section
variable {o i j : Inst} {e : Descriptor} {k : Nat} {v : Byte} {b x : Buffer}

@[simp] theorem Buffer.length_bytes (b : Buffer) : b.bytes.length = b.len := by simp [Buffer.bytes]

theorem Buffer.bytes_write (h : x.write k v = some b) (hx : x.wf = true) : b.bytes = x.bytes.set k v := by
  obtain ⟨-, hlen, hmem⟩ := Buffer.write_spec h
  obtain ⟨hwf, -⟩ := Buffer.wf_iff.mp hx
  refine List.ext_getElem (by simp [hlen]) fun n hn hn' => ?_
  simp [Buffer.bytes, hmem, Memory.read_write _ _ _ hwf, List.getElem_set, eq_comm]

/-- After a write at `k` the sum of the bytes before it and the byte written is the sum of the first `k + 1`. -/
theorem Buffer.sumBytes_take_write (h : x.write k v = some b) (hx : x.wf = true) :
    sumBytes (b.bytes.take (k + 1)) = sumAdd (sumBytes (x.bytes.take k)) v := by
  obtain ⟨hk, -, -⟩ := Buffer.write_spec h
  rw [Buffer.bytes_write h hx, List.take_succ_eq_append_getElem (by simpa using hk), List.take_set_of_le le_rfl,
    List.getElem_set_self, sumBytes_append_singleton]

/-- The store of the byte with index `k`, its addition to SUM and the step of IDX. -/
theorem Inst.Received.next (h : o.Received e k i) (hwrite : (i.buffer e.t2i).write k v = some b)
    (htable : j.table = i.table) (hbuffers : j.buffers = (i.setBuffer e.t2i b).buffers) (hsaved : j.ieSaved = i.ieSaved)
    (hidx : j.idx = some (k + 1)) (hsum : j.sum = some (sumAdd (sumBytes ((i.buffer e.t2i).bytes.take k)) v)) :
    o.Received e (k + 1) j := by
  have hbuffer (n : Nat) : j.buffer n = if n = e.t2i then b else i.buffer n := by
    rw [← Inst.buffer_setBuffer b h.named, Inst.buffer, hbuffers]
    rfl
  obtain ⟨-, hlen, -⟩ := Buffer.write_spec hwrite
  refine ⟨htable.trans h.table, ?_, fun n hn => ?_, ?_, ?_, hsaved.trans h.ieSaved, hidx, ?_⟩
  · simpa [hbuffers] using h.named
  · simpa [hbuffer, hn] using h.others n hn
  · simpa [hbuffer, hlen] using h.len
  · simpa [hbuffer] using Buffer.wf_write hwrite h.wf
  · simpa [hbuffer, Buffer.sumBytes_take_write hwrite h.wf] using hsum

/-- The registers and the buffer before the first byte. -/
theorem Inst.Received.zero (hnamed : e.t2i < i.buffers.length) (hwf : (i.buffer e.t2i).wf = true)
    (htable : j.table = i.table) (hbuffers : j.buffers = i.buffers) (hsaved : j.ieSaved = some i.ie)
    (hidx : j.idx = some 0) (hsum : j.sum = some 0) : i.Received e 0 j := by
  have hbuffer (n : Nat) : j.buffer n = i.buffer n := congrArg (List.getD · n _) hbuffers
  exact ⟨htable, hbuffers ▸ hnamed, fun n _ => hbuffer n, congrArg _ (hbuffer _), hbuffer _ ▸ hwf, hsaved, hidx,
    hsum⟩

/-- The selected descriptor names a buffer that is there (R120). -/
theorem Inst.Inv.t2i_lt {p : Params} {now : Nat} (h : i.Inv p now) (hdesc : i.desc = some e) :
    e.t2i < i.buffers.length := by
  obtain ⟨ds, htable⟩ := Inst.desc_eq_some.mp hdesc
  have hwithin := h.tableNames _ htable
  simp only [Table.within, List.all_cons, Descriptor.within, Bool.and_eq_true, decide_eq_true_eq] at hwithin
  obtain ⟨⟨-, ht2i⟩, -⟩ := hwithin
  exact ht2i

theorem Inst.Received.desc_eq (h : o.Received e k i) : i.desc = o.desc := congrArg (Option.bind · List.head?) h.table

/-- Once the whole buffer is received, SUM is the sum of its bytes. -/
theorem Inst.Received.sum_all (h : o.Received e (o.buffer e.t2i).len i) :
    i.sum = some (sumBytes (i.buffer e.t2i).bytes) := by
  rw [h.sum, List.take_of_length_le (by simp [h.len])]

theorem idxSucc_of_lt {p : Params} {n : Nat} (h : n + 1 < 2 ^ p.idxW) : idxSucc p n = n + 1 := Nat.mod_eq_of_lt h

end

/-! ### The parts of R412 -/

section
variable {o s : State} {d : Side} {i : Inst} {rest : List Micro} {u k : Nat} {e : Descriptor} {saved : Bool}
  {out : TxnOutcome}

/-- TXN that passes its checks is at the first step of its sequence (R411). -/
theorem State.RunsClean.start (halone : o.Alone d) (hissue : o.Issuing d) (hrole : o.self.role = .initiator)
    (hdesc : o.self.desc = some e) (hlistens : (o.inst d.other).dir = .input) :
    o.RunsClean .txn (o.load txnCode) d o.self o.now txnCode :=
  have hexec := exec_txn hrole hdesc
  ⟨.start halone hissue hexec, ⟨_, hexec, .refl _⟩, hlistens, o.load_trace _⟩

/-- The request: the line is low for `T_REQ`, then free for `T_SETTLE`, and then its sample goes into RES (R412 steps 1
and 2). Where no detector is enabled, only the two delays take draws before the sample. -/
theorem State.RunsClean.request (h : o.RunsClean .txn s d i u (txnRequest ++ rest))
    (hi : i.edgeEn = (o.inst d).edgeEn) :
    ∃ x t w,
      o.RunsClean .txn x d { i.maskIrq with olat := false, dir := .input, st := .iPres } w
        (.op .rdlvl :: .presence :: rest) ∧
      ((∀ e, (o.inst e).edgeEn = false) → x.env = s.afterDraw.afterDraw.env) ∧
      o.RunsClean .txn t d
        { i.maskIrq with olat := false, dir := .input, st := .iPres, res := some (zext8 x.sample) } w
        (.presence :: rest) := by
  obtain ⟨_, hmask, henv1⟩ := State.RunsClean.irqoff h
  obtain ⟨_, hreq, henv2⟩ := hmask.setSt
  obtain ⟨_, hout, henv3⟩ := hreq.setDir .output fun _ => rfl
  obtain ⟨_, hlow, henv4⟩ := hout.setOlat false fun _ => rfl
  obtain ⟨_, _, hwait, henv5, -⟩ := hlow.delay (v := o.params.tReq) rfl
  obtain ⟨_, hin, henv6⟩ := hwait.setDir .input fun _ => rfl
  obtain ⟨_, w, hsettle, henv7, -⟩ := hin.delay (v := o.params.tSettle) rfl
  obtain ⟨x, hpres, henv8⟩ := hsettle.setSt
  obtain ⟨t, hsample⟩ := hpres.rdlvl
  refine ⟨x, t, w, hpres, fun hoff => ?_, hsample⟩
  have hedges {y : State} {j : Inst} (hy : o.RunsAlone y d j) (hj : j.edgeEn = i.edgeEn) (e : Side) :
      (y.inst e).edgeEn = false := (hy.edgeEn_eq (hj.trans hi) e).trans (hoff e)
  rw [henv8, henv7]
  simp [State.afterDraw, henv6 (hedges hwait.toRunsAlone rfl), henv5, henv4 (hedges hout.toRunsAlone rfl),
    henv3 (hedges hreq.toRunsAlone rfl), henv2, henv1]

theorem State.presence_eq {v : Byte} (hres : s.self.res = some v) :
    s.presence = if v = 0x01 then s.goto (txnExit .noResponse) else s := by simp [State.presence, hres]

/-- A sample of 1 is nobody's answer: TXN exits (R412 step 2). -/
theorem State.RunsClean.noResponse (h : o.RunsClean .txn s d i u (.presence :: rest)) (hres : i.res = some 0x01) :
    ∃ t, o.RunsClean .txn t d i u (txnExit .noResponse) ∧ t.env = s.env :=
  h.jump fun _ hr => congrArg Host.Outcome.next (State.presence_eq (hr.self.res_eq.trans hres))

/-- A sample of 0 is an answer: TXN goes on (R412 step 2). -/
theorem State.RunsClean.answered (h : o.RunsClean .txn s d i u (.presence :: rest)) (hres : i.res = some 0x00) :
    ∃ t, o.RunsClean .txn t d i u rest ∧ t.env = s.env :=
  h.skip fun _ hr => congrArg Host.Outcome.next (State.presence_eq (hr.self.res_eq.trans hres))

/-- The synchronization clears SUM and IDX before the loop (R412 step 3). -/
theorem State.RunsClean.sync (h : o.RunsClean .txn s d i u (txnSync ++ rest)) :
    ∃ t w, o.RunsClean .txn t d { i with st := .iSync, dir := .input, sum := some 0, idx := some 0 } w
      (.recvLoop :: rest) := by
  obtain ⟨_, hst, -⟩ := State.RunsClean.setSt h
  obtain ⟨_, w, hsynced⟩ := hst.rsync
  obtain ⟨_, hclear, -⟩ := hsynced.ckclr
  obtain ⟨t, hloop, -⟩ := hclear.idxClear
  exact ⟨t, w, hloop⟩

/-- The body of the loop receives one byte, stores it and adds it to SUM (R412 step 3). -/
theorem State.RunsClean.receiveByte (h : o.RunsClean .txn s d i u (recvBody k ++ rest)) (hi : o.self.Received e k i)
    (hdesc : o.self.desc = some e) (hk : k < (o.self.buffer e.t2i).len) (hfits : k + 1 < 2 ^ o.params.idxW) :
    ∃ t w j, o.RunsClean .txn t d j w (.recvLoop :: rest) ∧ o.self.Received e (k + 1) j := by
  obtain ⟨_, hrecv, -⟩ := State.RunsClean.setSt h
  obtain ⟨_, _, v, hbyte⟩ := hrecv.rdbyte
  obtain ⟨b, hwrite⟩ := Buffer.write_of_lt (b := i.buffer e.t2i) (hi.len.symm ▸ hk) v
  obtain ⟨_, hstored, -⟩ := hbyte.storeRes hi.idx rfl (hi.desc_eq.trans hdesc) hwrite
  obtain ⟨_, hadded, -⟩ := hstored.ckaddr hi.sum rfl
  obtain ⟨_, w, hsync⟩ := hadded.rsync
  obtain ⟨t, hnext, -⟩ := hsync.idxNext hi.idx
  rw [idxSucc_of_lt hfits] at hnext
  exact ⟨t, w, _, hnext, hi.next hwrite rfl rfl rfl rfl rfl⟩

theorem State.recvLoop_eq (hidx : s.self.idx = some k) (hdesc : s.self.desc = some e) :
    s.recvLoop = if k < (s.self.buffer e.t2i).len then s.load (recvBody k) else s := by
  simp [State.recvLoop, State.withLen, State.withDesc, hidx, hdesc]

theorem runMicro_recvLoop (h : o.RunsAlone s d i) (hi : o.self.Received e k i) (hdesc : o.self.desc = some e) :
    runMicro .recvLoop s = .next (if k < (o.self.buffer e.t2i).len then s.load (recvBody k) else s) := by
  rw [← hi.len, ← h.self.buffer_eq]
  exact congrArg Host.Outcome.next
    (State.recvLoop_eq (h.self.idx_eq.trans hi.idx) (h.self.desc_eq.trans (hi.desc_eq.trans hdesc)))

/-- The loop receives as many bytes as the buffer has (R412 step 3). -/
theorem State.RunsClean.receiveAll (h : o.RunsClean .txn s d i u (.recvLoop :: rest)) (hi : o.self.Received e k i)
    (hdesc : o.self.desc = some e) (hk : k ≤ (o.self.buffer e.t2i).len)
    (hfits : (o.self.buffer e.t2i).len < 2 ^ o.params.idxW) :
    ∃ t w j, o.RunsClean .txn t d j w rest ∧ o.self.Received e (o.self.buffer e.t2i).len j := by
  induction hleft : (o.self.buffer e.t2i).len - k generalizing s i u k with
  | zero =>
    obtain rfl : k = (o.self.buffer e.t2i).len := by omega
    obtain ⟨t, hnext, -⟩ := h.skip fun _ hr => by simp [runMicro_recvLoop hr hi hdesc]
    exact ⟨t, u, i, hnext, hi⟩
  | succ left ih =>
    have hlt : k < (o.self.buffer e.t2i).len := by omega
    obtain ⟨_, hbody, -⟩ := h.expand (ms := recvBody k) fun _ hr => by simp [runMicro_recvLoop hr hi hdesc, hlt]
    obtain ⟨_, _, j, hloop, hj⟩ := hbody.receiveByte hi hdesc hlt (by omega)
    exact ih hloop hj hlt (by omega)

/-- The checksum byte is received and compared: the outcome says whether it is the checksum of the bytes before it
(R412 steps 4 and 5). -/
theorem State.RunsClean.check {x : Byte} (h : o.RunsClean .txn s d i u txnCheck) (hsum : i.sum = some x) :
    ∃ t w c,
      o.RunsClean .txn t d
        { i with
          st := .iCmp, dir := .input, acc := some c, res := some c, ck := some (fold x)
          matchFlag := some (matches8 (fold x) c) } w
        (txnExit (if fold x = c then .completed else .dataError)) := by
  obtain ⟨_, hrecv, -⟩ := State.RunsClean.setSt h
  obtain ⟨_, _, c, hbyte⟩ := hrecv.rdbyte
  obtain ⟨_, w, hsync⟩ := hbyte.rsync
  obtain ⟨_, hcmp, -⟩ := hsync.setSt
  obtain ⟨_, hfold, -⟩ := hcmp.ckfold hsum
  obtain ⟨_, hmatch, -⟩ := hfold.ckcmp rfl rfl
  obtain ⟨t, hexit, -⟩ := hmatch.jump (ms := txnExit (if fold x = c then .completed else .dataError)) fun _ hr => by
    simp [runMicro, State.decideOutcome, hr.self.matchFlag_eq, matches8]
  exact ⟨t, w, c, hexit⟩

/-- The controller with which TXN returns (R412 step 6). -/
def Inst.returned (i : Inst) (out : TxnOutcome) (ie : Bool) : Inst :=
  { i with st := .iIdle, olat := true, dir := .output, outc := some out.code, ie := ie }

/-- The exit drives the port high, writes the outcome and restores IE (R412 step 6). -/
theorem State.RunsClean.exit (h : o.RunsClean .txn s d i u (txnExit out)) (hsaved : i.ieSaved = some saved) :
    ∃ t, o.RunsClean .txn t d (i.returned out saved) u [] := by
  obtain ⟨_, hst, -⟩ := State.RunsClean.setSt h
  obtain ⟨_, hlatch, -⟩ := hst.setOlat true fun _ => rfl
  obtain ⟨_, hout, -⟩ := hlatch.setDir .output fun _ => rfl
  obtain ⟨_, hwritten, -⟩ := State.RunsClean.setOutcome hout
  obtain ⟨_, hirq, -⟩ := hwritten.irqon hsaved
  obtain ⟨t, hidle, -⟩ := hirq.setSt
  exact ⟨t, hidle⟩

/-- TXN returns from its exit, and then its port drives the line high. -/
theorem State.RunsClean.returns {post : State → Prop} (h : o.RunsClean .txn s d i u (txnExit out))
    (hissue : o.Issuing d) (hsaved : i.ieSaved = some saved)
    (hpost : ∀ x, SameButControl (i.returned out saved) x.self → x.line = .high → x.trace = o.trace → post x) :
    Completes .txn o post := by
  obtain ⟨x, hend⟩ := h.exit hsaved
  refine hend.completes hissue fun y hy htrace => hpost y hy.self ?_ htrace
  exact (hy.line_of_output rfl h.listens).2.mpr rfl

/-- Under noise a sample is the next draw (R268). -/
theorem State.sample_noise {p : Bool} {more : List Nat} (hnoise : s.params.noise = .arbitrary)
    (htape : s.env.tape = p.toNat :: more) : s.sample = p := by
  cases p <;> simp [State.sample, State.sampleDraws, hnoise, State.drawn, htape, drawBit]

end

/-- Settles O45: the request's sample is the third draw. A sample of 1 leads to the exit, and one of 0 through the loop
and the comparison, whatever is drawn on the way. -/
theorem txnUnderNoise : Obligations.TxnUnderNoise := by
  intro s d e j k p more hs halone hissue hrole hdesc hfits hlistens hnoise hI hT htape
  have hoff : ∀ e, (s.inst e).edgeEn = false := fun
    | .I => hI
    | .T => hT
  obtain ⟨x, t, w, hx, henv, hsampled⟩ := (State.RunsClean.start halone hissue hrole hdesc hlistens).request
    (congrArg Inst.edgeEn (State.self_of_cur hissue.cur_eq))
  have hsample : x.sample = p := State.sample_noise (more := more) (hx.params ▸ hnoise) (by
    simp [henv hoff, State.afterDraw, htape])
  rw [hsample] at hsampled
  cases p with
  | true =>
    obtain ⟨_, hexit, -⟩ := hsampled.noResponse rfl
    refine hexit.returns hissue rfl fun y hy hline htrace => ?_
    rw [hy]
    exact ⟨rfl, rfl, rfl, rfl, hline, htrace, rfl, fun _ _ => rfl, fun _ => ⟨rfl, rfl⟩, nofun⟩
  | false =>
    obtain ⟨_, hanswered, -⟩ := hsampled.answered rfl
    obtain ⟨_, _, hloop⟩ := State.RunsClean.sync hanswered
    have hwf := Inst.buffer_wf hs.self.buffersLegal e.t2i
    obtain ⟨_, _, i, hcheck, hi⟩ := hloop.receiveAll
      (.zero (hs.self.t2i_lt hdesc) hwf rfl rfl rfl rfl rfl) hdesc (Nat.zero_le _) hfits
    obtain ⟨_, _, c, hexit⟩ := hcheck.check hi.sum_all
    refine hexit.returns hissue hi.ieSaved fun y hy hline htrace => ?_
    rw [hy]
    exact ⟨rfl, rfl, rfl, rfl, hline, htrace, hi.table, hi.others, nofun,
      fun _ => ⟨c, hi.len, rfl, congrArg some (apply_ite _ _ _ _)⟩⟩

end Sys2Proof.Machine
end

section
/-! PROOFS of the obligations about the target engine (47_target.md). INITT's second step follows its first at once
(`State.Alone.step_load_armTarget`). A handler with an idle partner is the only agent ever due (`State.OnlyHandler`),
and its run is followed from one zero-time step to the next (`State.HandlerGoes`): what its controller has become, which
steps are left, and how long, up to the draws, it took to come there. One rule per zero-time step leads to the next such
place; the composites and the parts of R462 are these rules one after the other. -/

namespace Sys2Proof.Machine

/-! ### O41: INITT on a controller that runs alone -/

section
variable {s t : State} {d : Side} {dir : Dir} {olat : Bool}

/-- A port write that leaves the line uncontended raises nothing. -/
theorem PortWritten.self_of_not_contended (h : PortWritten s t dir olat) (hline : t.line ≠ .contended) :
    SameButEdges { s.self with dir := dir, olat := olat } t.self := by
  simpa [hline] using h.self

theorem PortWritten.trace_of_not_contended (h : PortWritten s t dir olat) (hline : t.line ≠ .contended) :
    t.trace = s.trace := by
  simpa [hline] using h.trace

theorem exec_initt (hrole : s.self.role = .unset) : exec .initt s = .next ((s.writeDir .input).load [.armTarget]) := by
  simp [exec, execInitt, hrole]

/-- The second step of INITT is its last: it leaves its host idle, as before the first. -/
theorem runContext_load_armTarget (hcur : s.cur = d.host) (hidle : (s.ctx d.host).status = .idle)
    (hcode : (s.ctx d.host).code = []) :
    runContext d.host (s.load [.armTarget]) = .next (s.setSelf s.self.armTarget) := by
  obtain ⟨i, t, _, _, _, _, _⟩ := s
  subst hcur
  cases d
  · match i, hidle, hcode with
    | { ordinary := ⟨_, _, _⟩, .. }, rfl, rfl => rfl
  · match t, hidle, hcode with
    | { ordinary := ⟨_, _, _⟩, .. }, rfl, rfl => rfl

theorem State.Alone.step_load_armTarget (h : (s.load [.armTarget]).Alone d) (hcur : s.cur = d.host)
    (hidle : (s.ctx d.host).status = .idle) (hcode : (s.ctx d.host).code = []) :
    step (s.load [.armTarget]) = .next (s.setSelf s.self.armTarget) := by
  have hctx := s.ctx_load [.armTarget]
  rw [hcur] at hctx
  have hready := congrArg Context.status hctx
  have hdue := State.due_of_goesOn h.notMasked (.ready hready rfl) (by simp [hctx])
  rw [h.step_of_due hdue (by simp [hready]) le_rfl, runContext_load_armTarget hcur hidle hcode]

end

/-- Settles O41: the port turns to input without contention, and the step that arms the detector follows at once. -/
theorem inittCompletes : Obligations.InittCompletes := by
  intro s d halone hissue hrole
  have hport : PortWritten s (s.writeDir .input) .input s.self.olat := s.writePort_spec _ _
  have hline : (s.writeDir .input).line ≠ .contended := by
    simp [State.writeDir, State.writePort_line_eq_contended_iff]
  have hcur : (s.writeDir .input).cur = d.host := hport.globals.cur_eq.trans hissue.cur_eq
  have hctx : (s.writeDir .input).ctx s.cur = s.ctx s.cur := s.ctx_writePort _ _
  have harmed : ((s.writeDir .input).setSelf (s.writeDir .input).self.armTarget).ctx s.cur = s.ctx s.cur := by
    rw [← hctx, ← hport.globals.cur_eq, State.ctx_setSelf]
    rfl
  have hpartner := hport.partner
  rw [hissue.cur_eq] at hctx hpartner
  have hstep := (halone.runMicro (m := .op .initt) hissue.cur_eq (exec_initt hrole) nofun nofun).step_load_armTarget
    hcur ((congrArg Context.status hctx).trans hissue.status_eq) ((congrArg Context.code hctx).trans hissue.code_eq)
  obtain ⟨-, hidle, hdone⟩ := hissue
  refine ⟨_, _, exec_initt hrole, .head hstep (.refl _), ?_, ?_, ?_, ?_, ?_, ?_⟩
  · rw [harmed, hidle]
  · rw [harmed, hdone]
  · rw [State.self_setSelf, hport.self_of_not_contended hline]
    rfl
  · have hother := (s.writeDir .input).setSelf_other (s.writeDir .input).self.armTarget
    rw [hcur] at hother
    exact hother.symm ▸ hpartner
  · simpa [SameGlobals] using hport.globals
  · rw [State.setSelf_trace, hport.trace_of_not_contended hline]

/-! ### O47: TGTISR -/

section
variable {s : State} {e : Descriptor}

theorem exec_tgtisr_ordinary (hkind : s.cur.kind = .ordinary) : exec .tgtisr s = .next (s.refuse .illegalOp) := by
  simp [exec, execTgtisr, hkind]

theorem exec_tgtisr_no_descriptor (hkind : s.cur.kind = .interrupt) (hdesc : s.self.desc = none) :
    exec .tgtisr s = .next (s.refuse .noDescriptor) := by
  simp [exec, execTgtisr, hkind, State.withDesc, hdesc]

theorem exec_tgtisr (hkind : s.cur.kind = .interrupt) (hdesc : s.self.desc = some e) :
    exec .tgtisr s = .next (s.load isrCode) := by
  simp [exec, execTgtisr, hkind, State.withDesc, hdesc]

end

/-- Settles O47: the context says whether the word may stand there, and the table whether the sequence starts. -/
theorem handlerStart : Obligations.HandlerStart := fun s =>
  ⟨fun hkind => ⟨_, exec_tgtisr_ordinary hkind, s.refuse_spec _⟩,
    fun hkind hdesc => ⟨_, exec_tgtisr_no_descriptor hkind hdesc, s.refuse_spec _⟩, fun _ => exec_tgtisr⟩


/-! ### O48: nothing but the handler steps -/

/-- The interrupt context of a controller, which runs its handler. -/
def Side.handler (d : Side) : ContextId := { side := d, kind := .interrupt }

/-- The link around the handler of `d`, with nothing else to happen: no reset, no delivery, a partner that does nothing
and whose port is an input. -/
structure State.OnlyHandler (s : State) (d : Side) : Prop where
  noResets : ∀ e, (s.inst e).resets = []
  noDelivery : ∀ e, (s.inst e).deliverAt = none
  masked : (s.inst d).inIsr = true
  noTarget : (s.inst d.other).role ≠ .target
  noHandler : (s.inst d.other).interrupt.status = .idle
  partnerIdle : (s.inst d.other).ordinary.status = .idle
  noScript : (s.inst d.other).script = []
  listens : (s.inst d.other).dir = .input

section
variable {s t : State} {d : Side} {a : Agent} {m : Micro} {u : Nat}

theorem State.OnlyHandler.due_eq_none (h : s.OnlyHandler d) (ha : a ≠ .context d.handler) : s.due a = none := by
  cases a with
  | context c =>
    obtain ⟨e, kind⟩ := c
    by_cases he : e = d
    · subst he
      cases kind with
      | ordinary => simp [State.due, Inst.contextDue, h.masked]
      | interrupt => exact absurd rfl ha
    · obtain rfl := Side.eq_other_of_ne he
      cases kind with
      | ordinary => simp [State.due, Inst.contextDue, Inst.ctx, h.partnerIdle, Inst.hostDue, h.noScript]
      | interrupt => simp [State.due, Inst.contextDue, Inst.ctx, h.noHandler]
  | edge e =>
    have hnot : (s.inst e).deliverable = false := by
      refine Side.forall_of (p := fun e => (s.inst e).deliverable = false) (d := d) ?_ ?_ e
      · simp [Inst.deliverable, h.masked]
      · simp [Inst.deliverable, h.noTarget]
    simp [State.due, Inst.edgeDue, hnot, h.noDelivery]
  | reset e => exact congrArg List.head? (h.noResets e)

theorem State.due_handler (hgoes : (s.ctx d.handler).GoesOn s.now u) (hcode : (s.ctx d.handler).code ≠ []) :
    s.due (.context d.handler) = some u := by
  simp only [State.ctx, Side.handler] at hgoes hcode
  rcases hgoes with ⟨hx, hu⟩ | ⟨hx | hx, -⟩ | ⟨-, hnil, -⟩
  · simp [State.due, Inst.contextDue, Side.handler, hx, hu]
  · simp [State.due, Inst.contextDue, Side.handler, hx]
  · simp [State.due, Inst.contextDue, Side.handler, hx]
  · exact absurd hnil hcode

/-- The state in which the handler of `d` takes a step at `u`, with `rest` left after it. -/
def State.handlerTurn (s : State) (d : Side) (u : Nat) (rest : List Micro) : State :=
  (s.advanceTo u).running d.handler rest

/-- A handler with steps left comes to its instant and takes the first of them. -/
theorem State.OnlyHandler.reaches {rest : List Micro} (h : s.OnlyHandler d)
    (hgoes : (s.ctx d.handler).GoesOn s.now u) (hcode : (s.ctx d.handler).code = m :: rest)
    (hrun : runMicro m (s.handlerTurn d u rest) = .next t) : Reaches s t.finish := by
  have hctx := s.advanceTo_ctx u d.handler
  have hne : (s.ctx d.handler).code ≠ [] := by simp [hcode]
  have hdue := State.due_handler hgoes hne
  have hdue' : (s.advanceTo u).due (.context d.handler) = some u :=
    State.due_handler (hctx ▸ hgoes.advance) (hctx ▸ hne)
  have hadvanced : (s.advanceTo u).OnlyHandler d := by cases d <;> exact { h with }
  have hstep : step (s.advanceTo u) = .next t.finish := by
    rw [step_of_only_due hdue' (fun _ => hadvanced.due_eq_none) le_rfl, runAgent_busy (hctx ▸ hgoes.busy hne),
      runContext_cons (hctx ▸ hcode)]
    exact congrArg (andThen · State.finish) hrun
  rcases hgoes.le.lt_or_eq with hu | rfl
  · exact .head (step_advance_of_only_due hdue (fun _ => h.due_eq_none) hu) (.head hstep (.refl _))
  · exact .head hstep (.refl _)

/-- Only the handler steps still, where its controller plans nothing new and the partner is as it was but for its
latched edge. -/
theorem State.OnlyHandler.goOn (h : s.OnlyHandler d) (hresets : (t.inst d).resets = (s.inst d).resets)
    (hdeliver : (t.inst d).deliverAt = (s.inst d).deliverAt) (hisr : (t.inst d).inIsr = (s.inst d).inIsr)
    (hpartner : SameButEdges (s.inst d.other) (t.inst d.other)) : t.OnlyHandler d where
  noResets := Side.forall_of (hresets.trans (h.noResets d)) (by rw [hpartner]; exact h.noResets d.other)
  noDelivery := Side.forall_of (hdeliver.trans (h.noDelivery d)) (by rw [hpartner]; exact h.noDelivery d.other)
  masked := hisr.trans h.masked
  noTarget := by rw [hpartner]; exact h.noTarget
  noHandler := by rw [hpartner]; exact h.noHandler
  partnerIdle := by rw [hpartner]; exact h.partnerIdle
  noScript := by rw [hpartner]; exact h.noScript
  listens := by rw [hpartner]; exact h.listens

/-- No step of the handler but its return gives anything else a step to take. -/
theorem State.OnlyHandler.runMicro (h : s.OnlyHandler d) (hcur : s.cur = d.handler) (hrun : runMicro m s = .next t)
    (hm : m ≠ .armTarget ∧ m ≠ .handlerReturn) : t.OnlyHandler d := by
  obtain ⟨i, hwrites, heffect⟩ := runMicro_microEffect hrun
  obtain ⟨hresets, -, hdeliver, hisr⟩ := hwrites.quiet_eq hm.1 hm.2
  have hself := heffect.self
  have hpartner := heffect.partner
  rw [State.self, heffect.globals.cur_eq, hcur] at hself
  rw [State.self, hcur] at hresets hdeliver hisr
  rw [hcur] at hpartner
  change SameButControl i (t.inst d) at hself
  refine h.goOn ?_ ?_ ?_ hpartner <;> rw [hself]
  · exact hresets
  · exact hdeliver
  · exact hisr

end

/-! ### O48: the place in the handler's run -/

/-- `j` is `i` but for the context of its handler. -/
def SameButHandler (i j : Inst) : Prop := j = i.setCtx .interrupt j.interrupt

/-- `f` writes fields of a controller other than the context of its handler, and does not read that one. -/
def KeepsHandler (f : Inst → Inst) : Prop := ∀ i x, f (i.setCtx .interrupt x) = (f i).setCtx .interrupt x

/-- `s` is a state of the handler's run from `o`: its controller is `i`, and no fault was recorded so far. -/
structure State.Handling (o s : State) (d : Side) (i : Inst) : Prop where
  only : s.OnlyHandler d
  params : s.params = o.params
  trace : s.trace = o.trace
  self : SameButHandler i (s.inst d)

/-- In such a state the handler takes a step, with `rest` left after it. -/
structure State.HandlingNow (o s : State) (d : Side) (i : Inst) (rest : List Micro) : Prop
    extends State.Handling o s d i where
  cur : s.cur = d.handler
  ready : (s.ctx d.handler).status = .ready
  code : (s.ctx d.handler).code = rest

/-- The handler's run from `o` comes to such a state in which the steps `ms` are left, the first of them due `v` and at
most `n` times `J_DELAY` after `o`. -/
def State.HandlerGoes (o : State) (d : Side) (i : Inst) (v n : Nat) (ms : List Micro) : Prop :=
  ∃ s u, o.Handling s d i ∧ Reaches o s ∧ (s.ctx d.handler).code = ms ∧ (s.ctx d.handler).GoesOn s.now u ∧
    o.now + v ≤ u ∧ u ≤ o.now + v + n * o.params.jDelay

section
variable {o s t : State} {d : Side} {i j : Inst} {m : Micro} {ms rest : List Micro} {v n w k : Nat}
  {f : Inst → Inst}

theorem SameButHandler.dir_eq (h : SameButHandler i j) : j.dir = i.dir := by rw [h]; rfl

theorem SameButHandler.olat_eq (h : SameButHandler i j) : j.olat = i.olat := by rw [h]; rfl

theorem SameButHandler.desc_eq (h : SameButHandler i j) : j.desc = i.desc := by rw [h]; rfl

theorem SameButHandler.idx_eq (h : SameButHandler i j) : j.idx = i.idx := by rw [h]; rfl

theorem SameButHandler.sum_eq (h : SameButHandler i j) : j.sum = i.sum := by rw [h]; rfl

theorem SameButHandler.ck_eq (h : SameButHandler i j) : j.ck = i.ck := by rw [h]; rfl

theorem SameButHandler.buffer_eq (h : SameButHandler i j) (b : Nat) : j.buffer b = i.buffer b := by rw [h]; rfl

theorem SameButHandler.setCtx (h : SameButHandler i (s.inst d)) (x : Context) :
    SameButHandler i ((s.setCtx d.handler x).inst d) := by
  have hinst : (s.setCtx d.handler x).inst d = (s.inst d).setCtx .interrupt x := State.inst_setInst _ _ _
  rw [hinst, h]
  rfl

theorem KeepsHandler.sameButHandler (hf : KeepsHandler f) (h : SameButHandler i j) : SameButHandler (f i) (f j) := by
  unfold SameButHandler at *
  rw [h, hf]
  rfl

theorem KeepsHandler.interrupt_eq (hf : KeepsHandler f) (i : Inst) : (f i).interrupt = i.interrupt := by
  have hkept : f i = (f i).setCtx .interrupt i.interrupt := hf i i.interrupt
  rw [hkept]
  rfl

theorem State.HandlingNow.self_eq (h : o.HandlingNow s d i rest) : s.self = s.inst d := by
  rw [State.self, h.cur]
  rfl

theorem State.HandlingNow.sameButHandler (h : o.HandlingNow s d i rest) : SameButHandler i s.self :=
  h.self_eq ▸ h.self

theorem State.Handling.turn (h : o.Handling s d i) (u : Nat) (rest : List Micro) :
    o.HandlingNow (s.handlerTurn d u rest) d i rest := by
  have hinst : (s.handlerTurn d u rest).inst d =
      (s.inst d).setCtx .interrupt { s.ctx d.handler with status := .ready, code := rest } := by
    rw [← s.advanceTo_inst u, ← s.advanceTo_ctx u]
    exact (s.advanceTo u).turn_inst d.handler _
  have hother : (s.handlerTurn d u rest).inst d.other = s.inst d.other := by
    rw [← s.advanceTo_inst u]
    exact (s.advanceTo u).setCtx_withCur_partner d.handler d.handler _
  have hctx := (s.advanceTo u).turn_ctx d.handler { s.ctx d.handler with status := .ready, code := rest }
  refine ⟨⟨h.only.goOn ?_ ?_ ?_ (hother ▸ .refl _), (State.setCtx_params _ _ _).trans h.params,
    (State.setCtx_trace _ _ _).trans h.trace, ?_⟩, rfl, congrArg Context.status hctx, congrArg Context.code hctx⟩
  · simp [hinst]
  · simp [hinst]
  · simp [hinst]
  · rw [hinst, h.self]
    rfl

/-- One step of the handler, which takes `w` and at most `k` draws of `J_DELAY`. -/
theorem State.HandlerGoes.take (h : o.HandlerGoes d i v n (m :: rest)) (hms : ms ≠ [])
    (hrun : ∀ r, o.HandlingNow r d i rest → ∃ t u, runMicro m r = .next t ∧ t.trace = r.trace ∧
      SameButHandler j (t.inst d) ∧ (t.ctx d.handler).code = ms ∧ (t.ctx d.handler).GoesOn r.now u ∧
      r.now + w ≤ u ∧ u ≤ r.now + w + k * r.params.jDelay)
    (hm : m ≠ .armTarget ∧ m ≠ .handlerReturn := by exact ⟨nofun, nofun⟩) :
    o.HandlerGoes d j (v + w) (n + k) ms := by
  obtain ⟨s, u, hs, hreach, hcode, hgoes, hlow, hhigh⟩ := h
  have hr := hs.turn u rest
  obtain ⟨t, u', ht, htrace, hself, hcode', hgoes', hlow', hhigh'⟩ := hrun _ hr
  have hcur : t.cur = d.handler := (runMicro_cur ht).trans hr.cur
  have hstep := hs.only.reaches hgoes hcode ht
  rw [State.finish_of_code_ne_nil (by rwa [hcur, hcode'])] at hstep
  have hnow : (s.handlerTurn d u rest).now = u := State.turn_now _ _ _
  have hparams : t.params = o.params := by
    obtain ⟨_, -, heffect⟩ := runMicro_microEffect ht
    exact heffect.globals.params_eq.trans hr.params
  rw [hnow] at hgoes' hlow' hhigh'
  rw [hr.params] at hhigh'
  refine ⟨t, u', ⟨hr.only.runMicro hr.cur ht hm, hparams, htrace.trans hr.trace, hself⟩, hreach.trans hstep, hcode',
    (runMicro_now ht).trans hnow ▸ hgoes', by omega, ?_⟩
  rw [Nat.add_mul]
  omega

/-- A step of the handler in zero time. -/
theorem State.HandlerGoes.takeNow (h : o.HandlerGoes d i v n (m :: rest)) (hms : ms ≠ [])
    (hrun : ∀ r, o.HandlingNow r d i rest → ∃ t, runMicro m r = .next t ∧ t.trace = r.trace ∧
      SameButHandler j (t.inst d) ∧ (t.ctx d.handler).code = ms ∧ (t.ctx d.handler).status = .ready)
    (hm : m ≠ .armTarget ∧ m ≠ .handlerReturn := by exact ⟨nofun, nofun⟩) :
    o.HandlerGoes d j v n ms :=
  h.take (w := 0) (k := 0) hms (hm := hm) fun r hr => by
    obtain ⟨t, ht, htrace, hself, hcode, hready⟩ := hrun r hr
    exact ⟨t, r.now, ht, htrace, hself, hcode, .ready hready rfl, by omega, by omega⟩

end

/-! ### O48: one rule per zero-time step -/

section
variable {o s : State} {d : Side} {i : Inst} {m : Micro} {ms rest : List Micro} {v n k x : Nat} {p : Instr}
  {f : Inst → Inst}

/-- A step that writes fields of its controller and nothing else. -/
theorem State.HandlerGoes.write (h : o.HandlerGoes d i v n (m :: rest))
    (hrun : ∀ r, o.HandlingNow r d i rest → runMicro m r = .next (r.setSelf (f r.self)))
    (hrest : rest ≠ [] := by simp) (hf : KeepsHandler f := by exact fun _ _ => rfl)
    (hm : m ≠ .armTarget ∧ m ≠ .handlerReturn := by exact ⟨nofun, nofun⟩) :
    o.HandlerGoes d (f i) v n rest :=
  h.takeNow hrest (hm := hm) fun r hr => by
    have hinst := r.setSelf_inst (f r.self)
    have hctx := r.ctx_setSelf (f r.self)
    rw [hr.cur] at hinst hctx
    have hkept : (r.setSelf (f r.self)).ctx d.handler = r.ctx d.handler :=
      (hctx.trans (hf.interrupt_eq r.self)).trans (congrArg Inst.interrupt hr.self_eq)
    exact ⟨_, hrun r hr, r.setSelf_trace _, hinst.symm ▸ hf.sameButHandler hr.sameButHandler, hkept ▸ hr.code,
      hkept ▸ hr.ready⟩

/-- A composite or a loop's head puts the steps `ms` before the rest of the sequence (R187). -/
theorem State.HandlerGoes.expand (h : o.HandlerGoes d i v n (m :: rest))
    (hrun : ∀ r, o.HandlingNow r d i rest → runMicro m r = .next (r.load ms)) (hms : ms ++ rest ≠ [] := by simp)
    (hm : m ≠ .armTarget ∧ m ≠ .handlerReturn := by exact ⟨nofun, nofun⟩) :
    o.HandlerGoes d i v n (ms ++ rest) :=
  h.takeNow hms (hm := hm) fun r hr => by
    have hctx := r.ctx_load ms
    rw [hr.cur] at hctx
    refine ⟨_, hrun r hr, r.load_trace _, ?_, ?_, congrArg Context.status hctx⟩
    · rw [State.load, hr.cur]
      exact hr.self.setCtx _
    · rw [hctx, hr.code]

/-- A step that writes the port, with detection disabled, writes nothing else: the partner, an input, does not contend
with it (R233 to R236). -/
theorem State.HandlingNow.writePort (h : o.HandlingNow s d i rest) (hen : i.edgeEn = false) (dir : Dir) (olat : Bool) :
    (s.writePort dir olat).trace = s.trace ∧
      (s.writePort dir olat).inst d = { s.inst d with dir := dir, olat := olat } := by
  have hport := s.writePort_spec dir olat
  have hdetect : SameDetector s (s.writePort dir olat) d := State.writePort_sameDetector (by rw [h.self]; exact hen)
  have hlistens : (s.inst s.cur.side.other).dir = .input := by
    rw [h.cur]
    exact h.only.listens
  have hline : (s.writePort dir olat).line ≠ .contended := by simp [State.writePort_line_eq_contended_iff, hlistens]
  have hself := hport.self_of_not_contended hline
  rw [h.self_eq, State.self, hport.globals.cur_eq, h.cur] at hself
  refine ⟨hport.trace_of_not_contended hline, Eq.trans hself ?_⟩
  change { s.inst d with
    dir := dir, olat := olat, edgePend := ((s.writePort dir olat).inst d).edgePend,
    edgeFall := ((s.writePort dir olat).inst d).edgeFall } = _
  rw [hdetect.edgePend, hdetect.edgeFall]

/-- DRVH, DRVL, SETIN or SETOUT, with detection disabled (R233 to R236). -/
theorem State.HandlerGoes.port (h : o.HandlerGoes d i v n (.op p :: rest)) (hen : i.edgeEn = false) (dir : Dir)
    (olat : Bool) (hexec : ∀ r, SameButHandler i r.self → exec p r = .next (r.writePort dir olat))
    (hrest : rest ≠ [] := by simp) : o.HandlerGoes d { i with dir := dir, olat := olat } v n rest :=
  h.takeNow hrest fun r hr => by
    obtain ⟨htrace, hinst⟩ := hr.writePort hen dir olat
    have hctx := r.ctx_writePort dir olat
    rw [hr.cur] at hctx
    refine ⟨_, hexec r hr.sameButHandler, htrace, ?_, hctx ▸ hr.code, hctx ▸ hr.ready⟩
    rw [hinst, hr.self]
    rfl

theorem State.HandlerGoes.drive {b : Bool} (h : o.HandlerGoes d i v n (driveOp b :: rest)) (hen : i.edgeEn = false)
    (hrest : rest ≠ [] := by simp) : o.HandlerGoes d { i with olat := b } v n rest :=
  State.HandlerGoes.port h hen i.dir b (hrest := hrest) fun r hr => by
    cases b <;> simp [exec, execDrvh, execDrvl, State.writeOlat, hr.dir_eq]

theorem State.HandlerGoes.setDir (h : o.HandlerGoes d i v n (.op p :: rest)) (hen : i.edgeEn = false) (dir : Dir)
    (hexec : ∀ r, exec p r = .next (r.writeDir dir)) (hrest : rest ≠ [] := by simp) :
    o.HandlerGoes d { i with dir := dir } v n rest :=
  h.port hen dir i.olat (hrest := hrest) fun r hr => by rw [hexec, State.writeDir, hr.olat_eq]

/-- DELAY: the sequence goes on after the parameter's time and one draw (R262). -/
theorem State.HandlerGoes.delay {sel : BitVec 4} (h : o.HandlerGoes d i v n (.op (.delay sel) :: rest))
    (hparam : param o.params sel = some x) (hrest : rest ≠ [] := by simp) :
    o.HandlerGoes d i (v + x) (n + 1) rest :=
  h.take hrest fun r hr => by
    have hdraw := drawUpTo_le r.params.jDelay r.drawn
    have hsleep := r.sleep_eq x
    rw [hr.cur] at hsleep
    refine ⟨_, _, exec_delay (hr.params.symm ▸ hparam), by simp [hsleep], ?_, by simp [hsleep, hr.code],
      .waiting (.inl (by simp [hsleep]; rfl)) ?_, ?_, ?_⟩
    · rw [hsleep, State.afterDraw_inst]
      exact hr.self.setCtx _
    all_goals omega

/-- The instant and the draws, written another way. -/
theorem State.HandlerGoes.cast {w : Nat} (h : o.HandlerGoes d i v n ms) (hv : v = w) (hn : n = k) :
    o.HandlerGoes d i w k ms := hv ▸ hn ▸ h

/-! ### O48: the composites -/

/-- SSYNC holds the line low for `T_SYNC`, then high for `T_REL` (R290). -/
theorem State.HandlerGoes.ssync (h : o.HandlerGoes d i v n (.op .ssync :: rest)) (hen : i.edgeEn = false)
    (hrest : rest ≠ [] := by simp) :
    o.HandlerGoes d { i with dir := .output, olat := true } (v + ssyncTime o.params) (n + 2) rest := by
  have hcode := h.expand (ms := ssyncCode) (fun _ _ => rfl) (by simp [hrest])
  have hlow := State.HandlerGoes.drive (b := false) hcode hen
  have hsynced := (hlow.setDir hen .output fun _ => rfl).delay (x := o.params.tSync) rfl
  have hhigh := State.HandlerGoes.drive (b := true) hsynced hen
  exact (hhigh.delay (x := o.params.tRel) rfl hrest).cast (Nat.add_assoc _ _ _) rfl

/-- WRBIT puts the bit in the latch for `T_BIT` (R320). -/
theorem State.HandlerGoes.wrbit {b : Bool} (h : o.HandlerGoes d i v n (.op (.wrbit b) :: rest)) (hen : i.edgeEn = false)
    (hrest : rest ≠ [] := by simp) : o.HandlerGoes d { i with olat := b } (v + o.params.tBit) (n + 2) rest := by
  have hcode := h.expand (ms := wrbitCode b) (fun _ _ => rfl) (by simp [hrest])
  have hcell := (State.HandlerGoes.drive hcode hen).delay (x := o.params.tCell) rfl
  exact (hcell.delay (x := o.params.tFudge) rfl hrest).cast (Nat.add_assoc _ _ _) rfl

theorem State.HandlerGoes.wrbits {bits : List Bool}
    (h : o.HandlerGoes d i v n (bits.map (.op <| .wrbit ·) ++ rest)) (hen : i.edgeEn = false)
    (hrest : rest ≠ [] := by simp) :
    o.HandlerGoes d { i with olat := bits.getLastD i.olat } (v + bits.length * o.params.tBit) (n + bits.length * 2)
      rest := by
  induction bits generalizing i v n with
  | nil => exact h.cast (by simp) rfl
  | cons b bits ih =>
    have hbits := ih (h.wrbit hen (by simp [hrest])) hen
    rw [← List.getLastD_cons (a := i.olat)] at hbits
    exact hbits.cast (by simp only [List.length_cons, Nat.succ_mul]; omega) (by simp only [List.length_cons]; omega)

/-- WRBYTE drives the bits of its byte, one after the other (R322). -/
theorem State.HandlerGoes.wrbyte {b : Byte} (h : o.HandlerGoes d i v n (.op (.wrbyte b) :: rest))
    (hen : i.edgeEn = false) (hrest : rest ≠ [] := by simp) :
    o.HandlerGoes d { i with dir := .output, olat := b.getLsbD 0 } (v + 8 * o.params.tBit) (n + 16) rest := by
  have hcode := h.expand (ms := wrbyteCode b) (fun _ _ => rfl) (by simp [hrest])
  have hout := (State.HandlerGoes.drive hcode hen (by simp)).setDir hen .output (fun _ => rfl) (by simp [hrest])
  exact State.HandlerGoes.wrbits (bits := bitsMsbFirst b) hout hen hrest

end

/-! ### O48: the parts of R462 -/

section
variable {o s : State} {d : Side} {i : Inst} {rest : List Micro} {v n k : Nat} {e : Descriptor} {x : Byte}
  {st : EngineState}

theorem State.HandlerGoes.setSt (h : o.HandlerGoes d i v n (.setSt st :: rest)) (hrest : rest ≠ [] := by simp) :
    o.HandlerGoes d { i with st := st } v n rest := h.write (f := fun j => { j with st := st }) (fun _ _ => rfl) hrest

/-- The handler that is entered with a descriptor is at the first step of its sequence (R461). -/
theorem State.HandlerGoes.start (honly : o.OnlyHandler d)
    (hentry : (o.inst d).interrupt = { status := .ready, code := [.op .tgtisr], opcode := 0x63 })
    (hdesc : (o.inst d).desc = some e) : o.HandlerGoes d (o.inst d) 0 0 isrCode := by
  have hctx : o.ctx d.handler = { status := .ready, code := [.op .tgtisr], opcode := 0x63 } := hentry
  have hentered : o.HandlerGoes d (o.inst d) 0 0 [.op .tgtisr] :=
    ⟨o, o.now, ⟨honly, rfl, rfl, rfl⟩, .refl o, by rw [hctx], .ready (by rw [hctx]) rfl, by simp, by simp⟩
  exact hentered.expand (ms := isrCode)
    (fun r hr => exec_tgtisr (by rw [hr.cur]; rfl) (hr.sameButHandler.desc_eq.trans hdesc)) (by decide)

/-- The controller `i` in the handler's loop: its port drives high, detection is off, `k` bytes are sent, and `x` is
their sum. -/
def Inst.sending (i : Inst) (st : EngineState) (k : Nat) (x : Byte) : Inst :=
  { i.disableEdges with st := st, dir := .output, olat := true, idx := some k, sum := some x }

/-- The handler up to its loop: detection off, the acknowledge, SUM and IDX cleared (R462 steps 1 to 3). -/
theorem State.HandlerGoes.head (h : o.HandlerGoes d i 0 0 isrCode) :
    o.HandlerGoes d (i.sending .tAck 0 0) (ssyncTime o.params) 2 (.sendLoop :: isrTail) := by
  have hdisarm := State.HandlerGoes.setSt h
  have hoff := hdisarm.write (f := Inst.disableEdges) fun _ _ => rfl
  have hack := hoff.setSt.ssync rfl
  have hclear := hack.write (f := fun j => { j with sum := some 0 }) fun _ _ => rfl
  exact (hclear.write (f := fun j => { j with idx := some 0 }) fun _ _ => rfl).cast (Nat.zero_add _) rfl

theorem State.fetchByte_eq (hidx : s.self.idx = some k) (hdesc : s.self.desc = some e)
    (hk : k < (s.self.buffer e.t2i).len) :
    s.fetchByte = s.load (sendByteCode ((s.self.buffer e.t2i).mem.read k)) := by
  simp [State.fetchByte, State.memRead, State.withDesc, hidx, hdesc, Buffer.read, hk]

theorem State.sendLoop_eq (hidx : s.self.idx = some k) (hdesc : s.self.desc = some e) :
    s.sendLoop = if k < (s.self.buffer e.t2i).len then s.load (sendBody k) else s := by
  simp [State.sendLoop, State.withLen, State.withDesc, hidx, hdesc]

/-- The loop's head, where `k` bytes are sent (R462 step 3). -/
theorem State.HandlingNow.runMicro_sendLoop (h : o.HandlingNow s d (i.sending st k x) rest) (hdesc : i.desc = some e) :
    runMicro .sendLoop s = .next (if k < (i.buffer e.t2i).len then s.load (sendBody k) else s) := by
  have hself := h.sameButHandler
  have hbuffer : s.self.buffer e.t2i = i.buffer e.t2i := hself.buffer_eq _
  rw [runMicro, State.sendLoop_eq (hself.idx_eq.trans rfl) (hself.desc_eq.trans hdesc), hbuffer]

/-- In the loop's body the byte with index `k` is read, to be sent (R462 step 3). -/
theorem State.HandlingNow.runMicro_fetchByte (h : o.HandlingNow s d (i.sending st k x) rest) (hdesc : i.desc = some e)
    (hk : k < (i.buffer e.t2i).len) :
    runMicro .fetchByte s = .next (s.load (sendByteCode ((i.buffer e.t2i).mem.read k))) := by
  have hself := h.sameButHandler
  have hbuffer : s.self.buffer e.t2i = i.buffer e.t2i := hself.buffer_eq _
  rw [runMicro, State.fetchByte_eq (hself.idx_eq.trans rfl) (hself.desc_eq.trans hdesc) (hbuffer.symm ▸ hk), hbuffer]

/-- The loop's body sends one byte, its sync, and adds it to SUM (R462 step 3). -/
theorem State.HandlerGoes.sendByte (h : o.HandlerGoes d (i.sending st k x) v n (sendBody k ++ isrTail))
    (hdesc : i.desc = some e) (hk : k < (i.buffer e.t2i).len) (hfits : (i.buffer e.t2i).len < 2 ^ o.params.idxW) :
    o.HandlerGoes d (i.sending (.tSend k) (k + 1) (sumAdd x ((i.buffer e.t2i).mem.read k))) (v + byteTime o.params)
      (n + 18) (.sendLoop :: isrTail) := by
  have hidx : idxSucc o.params k = k + 1 := idxSucc_of_lt (by omega)
  have hbody : o.HandlerGoes d (i.sending (.tSend k) k x) v n (.fetchByte :: isrTail) := State.HandlerGoes.setSt h
  have hfetch := hbody.expand (fun r hr => hr.runMicro_fetchByte hdesc hk) (List.cons_ne_nil _ _)
  have hsent := (State.HandlerGoes.wrbyte hfetch rfl).ssync rfl
  have hadded := hsent.write (f := fun j => { j with sum := some (sumAdd x ((i.buffer e.t2i).mem.read k)) })
    fun r hr => exec_ckadd _ (hr.sameButHandler.sum_eq.trans rfl)
  have hnext := hadded.write (f := fun j => { j with idx := some (k + 1) }) fun r hr => by
    have hat : r.self.idx = some k := hr.sameButHandler.idx_eq.trans rfl
    simp [runMicro, State.idxNext, hat, hr.params, hidx]
  exact hnext.cast (by simp only [byteTime, ssyncTime]; omega) rfl

theorem Buffer.sumBytes_take_succ {b : Buffer} (h : k < b.len) :
    sumBytes (b.bytes.take (k + 1)) = sumAdd (sumBytes (b.bytes.take k)) (b.mem.read k) := by
  rw [List.take_succ_eq_append_getElem (by simpa using h), sumBytes_append_singleton]
  simp [Buffer.bytes]

/-- The loop sends the bytes that are left (R462 step 3). -/
theorem State.HandlerGoes.sendAll
    (h : o.HandlerGoes d (i.sending st k (sumBytes ((i.buffer e.t2i).bytes.take k))) v n (.sendLoop :: isrTail))
    (hdesc : i.desc = some e) (hfits : (i.buffer e.t2i).len < 2 ^ o.params.idxW) (hk : k ≤ (i.buffer e.t2i).len) :
    ∃ st', o.HandlerGoes d (i.sending st' (i.buffer e.t2i).len (sumBytes (i.buffer e.t2i).bytes))
      (v + ((i.buffer e.t2i).len - k) * byteTime o.params) (n + ((i.buffer e.t2i).len - k) * 18) isrTail := by
  induction hleft : (i.buffer e.t2i).len - k generalizing st k v n with
  | zero =>
    obtain rfl : k = (i.buffer e.t2i).len := by omega
    have hdone := h.write (f := id) (fun r hr => by simp [hr.runMicro_sendLoop hdesc]) (List.cons_ne_nil _ _)
    rw [List.take_of_length_le (by simp)] at hdone
    exact ⟨st, hdone.cast (by simp) (by simp)⟩
  | succ left ih =>
    have hlt : k < (i.buffer e.t2i).len := by omega
    have hbody := h.expand (ms := sendBody k) (fun r hr => by simp [hr.runMicro_sendLoop hdesc, hlt])
      (List.cons_ne_nil _ _)
    have hnext := hbody.sendByte hdesc hlt hfits
    rw [← Buffer.sumBytes_take_succ hlt] at hnext
    obtain ⟨st', hall⟩ := ih hnext hlt (by omega)
    exact ⟨st', hall.cast (by rw [Nat.succ_mul]; omega) (by omega)⟩

/-- The controller `i` when the handler is about to return: `k` bytes and the checksum of their sum `x` are sent
(R464). -/
def Inst.sent (i : Inst) (k : Nat) (x : Byte) : Inst :=
  { i.enableEdges with
    st := .tArmed, dir := .input, olat := true, idx := some k, sum := some x, ck := some (fold x) }

/-- The handler after its loop: the checksum and its sync, the drain, the port released and detection armed again (R462
steps 4 to 6). -/
theorem State.HandlerGoes.tail (h : o.HandlerGoes d (i.sending st k x) v n isrTail) :
    o.HandlerGoes d (i.sent k x) (v + byteTime o.params + o.params.tDrain) (n + 19) [.handlerReturn] := by
  have hfold := (State.HandlerGoes.setSt h).write (f := fun j => { j with ck := some (fold x) }) fun r hr =>
    exec_ckfold (hr.sameButHandler.sum_eq.trans rfl)
  have hck := hfold.expand (ms := [.op (.wrbyte (fold x))]) fun r hr => by
    simp [runMicro, State.sendCk, hr.sameButHandler.ck_eq.trans rfl]
  have hdrain := ((State.HandlerGoes.wrbyte hck rfl).ssync rfl).setSt.delay (x := o.params.tDrain) rfl
  have hreleased := hdrain.setDir rfl .input fun _ => rfl
  have harmed := hreleased.setSt.write (f := Inst.enableEdges) fun _ _ => rfl
  exact harmed.setSt.cast (by simp only [byteTime, ssyncTime]; omega) rfl

/-- The whole handler, up to its return: its duration, and `J_DELAY` at most for each of its delays (R462, R466). -/
theorem State.HandlerGoes.whole (h : o.HandlerGoes d i 0 0 isrCode) (hdesc : i.desc = some e)
    (hfits : (i.buffer e.t2i).len < 2 ^ o.params.idxW) :
    o.HandlerGoes d (i.sent (i.buffer e.t2i).len (sumBytes (i.buffer e.t2i).bytes))
      (handlerTime o.params (i.buffer e.t2i).len) (handlerDelays (i.buffer e.t2i).len) [.handlerReturn] := by
  obtain ⟨st, hall⟩ := h.head.sendAll (k := 0) hdesc hfits (Nat.zero_le _)
  exact hall.tail.cast (by rw [handlerTime, Nat.sub_zero, Nat.succ_mul]; omega) (by rw [handlerDelays]; omega)

/-- The return leaves the handler, in zero time (R387). -/
theorem State.HandlerGoes.returns (h : o.HandlerGoes d i v n [.handlerReturn]) :
    ∃ t x, Reaches o t ∧ t.inst d = (i.setCtx .interrupt x).leaveHandler ∧ (t.inst d.other).dir = .input ∧
      t.trace = o.trace ∧ o.now + v ≤ t.now ∧ t.now ≤ o.now + v + n * o.params.jDelay := by
  obtain ⟨s, u, hs, hreach, hcode, hgoes, hlow, hhigh⟩ := h
  have hr := hs.turn u []
  have hinst := (s.handlerTurn d u []).setSelf_inst (s.handlerTurn d u []).self.leaveHandler
  have hother := (s.handlerTurn d u []).setSelf_other (s.handlerTurn d u []).self.leaveHandler
  have hctx := (s.handlerTurn d u []).ctx_setSelf (s.handlerTurn d u []).self.leaveHandler
  have hstep := hs.only.reaches hgoes hcode rfl
  rw [State.finish_of_not_ready (by rw [State.setSelf_cur, hctx, hr.cur]; exact nofun)] at hstep
  rw [hr.cur] at hinst hother
  have hnow : (s.handlerTurn d u []).now = u := State.turn_now _ _ _
  refine ⟨_, _, hreach.trans hstep, hinst.trans (congrArg _ hr.sameButHandler), ?_, ?_, ?_, ?_⟩
  · exact (congrArg Inst.dir hother).trans hr.only.listens
  · rw [State.setSelf_trace, hr.trace]
  · rwa [State.setSelf_now, hnow]
  · rwa [State.setSelf_now, hnow]

end

/-- Settles O48: the handler runs through the parts of R462, and its return leaves what they made of its controller. -/
theorem handlerRunsToReturn : Obligations.HandlerRunsToReturn := by
  intro s d e hresetsI hresetsT hdeliverI hdeliverT hrole hhandler hidle hscript hlistens hisr hentry hdesc hfits
  have honly : s.OnlyHandler d :=
    ⟨fun | .I => hresetsI | .T => hresetsT, fun | .I => hdeliverI | .T => hdeliverT, hisr, hrole, hhandler, hidle,
      hscript, hlistens⟩
  obtain ⟨t, x, hreach, hinst, hpartner, htrace, hlow, hhigh⟩ :=
    ((State.HandlerGoes.start honly hentry hdesc).whole hdesc hfits).returns
  have hdir : (t.inst d).dir = .input := by rw [hinst]; rfl
  have hline : t.line = .high := by
    simp [State.line_eq_high_iff, State.driven_iff_of_input hdir, Inst.Drives, hpartner]
  refine ⟨t, hreach, hdir, ?_⟩
  rw [hinst]
  exact ⟨rfl, rfl, rfl, rfl, rfl, rfl, rfl, rfl, rfl, rfl, htrace, hline, hlow, hhigh⟩

end Sys2Proof.Machine
end

section
/-! PROOFS of the obligations about the link (48_link.md): the timing premise at the nominal values, what a zero-time step
leaves, and TXN with nobody answering, whose run up to the presence sample is followed once more with its time. -/

namespace Sys2Proof.Machine

/-! ### O59: the timing premise at the nominal values -/

/-- Settles O59: at the nominal values each condition of TP1 to TP4 is linear, the last bit's of TP3 being the tightest. -/
theorem timingPremiseNominal : Obligations.TimingPremiseNominal := by
  intro jd jp lm we ml iw a b latency hwe hlatency
  have hlatency' : (∀ lam, latency lam → lam ≤ lm) ↔ True := iff_true_intro hlatency
  simp only [TP1, TP2, TP3, TP3bit, TP4, gMin, Params.tBit, Config.nominalWith, hlatency', true_and]
  refine ⟨?_, ?_, ?_, ?_, ?_, ?_, ?_, ?_⟩ <;> omega

/-! ### O58: what a zero-time step leaves -/

section
variable {s : State} {m : Micro} {i : Inst} {n k : Nat}

/-- A write of one buffer leaves every byte but the one written, whatever form the memory has (R121). -/
theorem Inst.byteAt_setBuffer_ne {v : Byte} {b x : Nat} {y : Buffer} (hwrite : (i.buffer b).write x v = some y)
    (h : (i.setBuffer b y).byteAt n k ≠ i.byteAt n k) : n = b ∧ k = x := by
  unfold Inst.byteAt at h
  rw [Inst.buffer_setBuffer y (Inst.lt_of_write hwrite)] at h
  by_cases hn : n = b
  · subst hn
    rw [if_pos rfl] at h
    exact ⟨rfl, by_contra fun hk => h (Buffer.read_write_ne hwrite hk)⟩
  · exact absurd (by rw [if_neg hn]) h

/-- The one byte a zero-time step can change is the one that TXN's MemWrite names (R124). -/
theorem Writes.byteAt_ne (h : Writes s m i) (hne : i.byteAt n k ≠ s.self.byteAt n k) :
    m = .storeRes ∧ s.self.idx = some k ∧ ∃ e, s.self.desc = some e ∧ n = e.t2i := by
  cases h with
  | storeRes x v e b hidx hres hdesc hwrite =>
    obtain ⟨rfl, rfl⟩ := Inst.byteAt_setBuffer_ne hwrite hne
    exact ⟨rfl, hidx, e, hdesc, rfl⟩
  | _ => exact absurd rfl hne

end

/-- Settles O58: a step writes what `Writes` says of it, and its other effects touch no buffer. -/
theorem operationsLeaveTheRest : Obligations.OperationsLeaveTheRest := by
  intro s t m h
  obtain ⟨i, hwrites, heffect⟩ := runMicro_microEffect h
  obtain ⟨l, htrace, -⟩ := heffect.trace
  refine ⟨heffect.globals, heffect.partner, fun n k hne => hwrites.byteAt_ne (n := n) ?_, l, htrace⟩
  rw [heffect.self] at hne
  exact hne

/-! ### O44: TXN with nobody answering -/

section
variable {o s : State} {d : Side} {i : Inst} {rest : List Micro} {u : Nat} {op : Instr}

/-- An operation completes at the instant at which its run has nothing left to do. -/
theorem State.RunsClean.completesAt {post : State → Prop} (h : o.RunsClean op s d i u []) (hissue : o.Issuing d)
    (hpost : ∀ x, o.RunsAlone x d i → x.trace = o.trace → x.now = u → post x) : Completes op o post := by
  obtain ⟨s1, hexec, hreach⟩ := h.reached
  by_cases hbusy : (s.ctx d.host).status = .idle
  · exact ⟨s1, s, hexec, hreach, hissue.cur_eq ▸ hbusy, hissue.cur_eq ▸ h.code,
      hpost s h.toRunsAlone h.trace (h.goesOn.eq_now (.inr hbusy)).symm⟩
  · have hend := h.reaches hbusy (runContext_nil (s := s.advanceTo u) (c := d.host) (by simpa using h.code))
    refine ⟨s1, _, hexec, hreach.trans hend, by simp [hissue.cur_eq], by simp [hissue.cur_eq, h.code], ?_⟩
    exact hpost _ ((h.toRunsAlone.advanceTo u).turn _) ((State.setCtx_trace _ _ _).trans h.trace) (State.turn_now _ _ _)

/-- Without noise the presence sample of a line that nobody drives is 1 (R237, R412 step 2). -/
theorem State.RunsClean.rdlvl_quiet (h : o.RunsClean op s d i u (.op .rdlvl :: rest)) (hdir : i.dir = .input)
    (hnoise : o.params.noise = .none) : ∃ t, o.RunsClean op t d { i with res := some 0x01 } u rest := by
  obtain ⟨hclear, hhigh⟩ := h.line_of_input hdir
  have hsample : s.sample = true := by
    rw [(State.sample_level (h.params ▸ hnoise) hclear).1, hhigh.mpr (by simp [h.listens])]
    rfl
  have hread := h.rdlvl
  rwa [hsample] at hread

/-- The request on a line that nobody drives: after `T_REQ + T_SETTLE` and two draws the sample is 1 (R412 steps 1 and
2, R418). -/
theorem State.RunsClean.requestUnanswered (h : o.RunsClean op s d i u (txnRequest ++ rest))
    (hnoise : o.params.noise = .none) :
    ∃ t w,
      o.RunsClean op t d { i.maskIrq with olat := false, dir := .input, st := .iPres, res := some 0x01 } w
        (.presence :: rest) ∧
      u + noResponseTime o.params ≤ w ∧ w ≤ u + noResponseTime o.params + 2 * o.params.jDelay := by
  obtain ⟨_, hmask, -⟩ := State.RunsClean.irqoff h
  obtain ⟨_, hreq, -⟩ := hmask.setSt
  obtain ⟨_, hout, -⟩ := hreq.setDir .output fun _ => rfl
  obtain ⟨_, hlow, -⟩ := hout.setOlat false fun _ => rfl
  obtain ⟨_, v, hwait, -, hv, hv'⟩ := hlow.delay (v := o.params.tReq) rfl
  obtain ⟨_, hin, -⟩ := hwait.setDir .input fun _ => rfl
  obtain ⟨_, w, hsettle, -, hw, hw'⟩ := hin.delay (v := o.params.tSettle) rfl
  obtain ⟨_, hpres, -⟩ := hsettle.setSt
  obtain ⟨t, hsample⟩ := hpres.rdlvl_quiet rfl hnoise
  have htime : noResponseTime o.params = o.params.tReq + o.params.tSettle := rfl
  exact ⟨t, w, hsample, by omega, by omega⟩

end

/-- Settles O44: the request's sample reads the free line, and the exit takes no time. -/
theorem txnNoResponse : Obligations.TxnNoResponse := by
  intro s d e halone hissue hrole hdesc hlistens hnoise
  obtain ⟨_, w, hsampled, hlow, hhigh⟩ :=
    (State.RunsClean.start halone hissue hrole hdesc hlistens).requestUnanswered hnoise
  obtain ⟨_, hexit, -⟩ := hsampled.noResponse rfl
  obtain ⟨_, hend⟩ := hexit.exit rfl
  refine hend.completesAt hissue fun x hx htrace hnow => ?_
  have hline : x.line = .high := (hx.line_of_output rfl hlistens).2.mpr rfl
  rw [hx.self]
  simp only [noResponseTime] at hlow hhigh
  exact ⟨rfl, rfl, rfl, rfl, rfl, rfl, rfl, hline, htrace, by omega, by omega⟩

end Sys2Proof.Machine
end

section
/-! PROOFS of the obligations about the host's store and the reset of one controller (70_reset_and_hazards.md). Each is one
operation of the model: MemWrite (`State.memWrite_of_write`), and a write of all fields that the detectors then see
(`State.resetInst_spec`). -/

namespace Sys2Proof.Machine

/-! ### O49: the store of a target's host -/

section
variable {s : State} {d : Side} {k : Nat} {v : Byte} {e : Descriptor}

theorem State.hostStore_eq (hrole : s.self.role = .target) (hdesc : s.self.desc = some e) :
    s.hostStore k v = s.memWrite k v := by simp [State.hostStore, hrole, hdesc]

theorem issueHost_store {time : Nat} {items : List HostItem}
    (hscript : (s.inst d).script = { time := time, move := .store k v } :: items) :
    issueHost d s = .next ((s.issue d 0 items).hostStore k v) := by simp [issueHost, hscript]

end

/-- Settles O49: the move is one MemWrite, issued by the host. -/
theorem hostStore : Obligations.HostStore := by
  intro s d time k v items e hs hscript hrole hdesc
  have hself := s.issue_self d 0 items
  have hdesc' : (s.issue d 0 items).self.desc = some e := by rw [hself]; exact hdesc
  have hbuffer : (s.issue d 0 items).self.buffer e.t2i = (s.inst d).buffer e.t2i := by rw [hself]; rfl
  have hissue := issueHost_store hscript
  rw [State.hostStore_eq (by rw [hself]; exact hrole) hdesc'] at hissue
  refine ⟨fun hlt => ?_, fun hle => ⟨_, hissue, ?_⟩⟩
  · obtain ⟨b, hwrite⟩ := Buffer.write_of_lt (hbuffer ▸ hlt) v
    rw [State.memWrite_of_write hdesc' hwrite] at hissue
    have hinst := (s.issue d 0 items).setSelf_inst ((s.issue d 0 items).self.setBuffer e.t2i b)
    change State.inst _ d = _ at hinst
    refine ⟨_, hissue, ((s.issue d 0 items).setSelf_other _).trans (s.issue_partner d 0 items), ?_, fun n j => ?_⟩
    · rw [hinst, hself]
      rfl
    · rw [hinst, Inst.byteAt_setBuffer hwrite (hbuffer ▸ Inst.buffer_wf (hs.inst d).buffersLegal _), hself]
      rfl
  · rw [State.memWrite_of_le hdesc' (hbuffer ▸ hle)]
    exact State.refuse_spec _ _

/-! ### O51: the reset of one controller -/

section
variable {s : State} {d : Side}

theorem Params.ieReset_eq (p : Params) (d : Side) : Params.ieReset p d = if d = .I then p.ieResetI else p.ieResetT := by
  cases d <;> rfl

/-- The state of a reset before the detectors look at the line. -/
def State.resetFields (s : State) (d : Side) : State :=
  s.afterDraw.setInst d
    { Inst.reset (drawBit s.drawn) (Params.ieReset s.params d) with
      ordinary := (s.inst d).ordinary.afterReset
      interrupt := (s.inst d).interrupt.afterReset
      buffers := (s.inst d).buffers
      argTable := (s.inst d).argTable
      script := (s.inst d).script.filter fun x => decide (s.now < x.time)
      resets := (s.inst d).resets.tail }

theorem State.resetInst_spec (s : State) (d : Side) : DetectedBoth (s.resetFields d) (s.resetInst d) :=
  State.detectBoth_spec _ _ _

/-- The controller that is reset has its detector off, so it sees no edge of its own reset (R612, R380). -/
theorem State.resetInst_inst (s : State) (d : Side) : (s.resetInst d).inst d = (s.resetFields d).inst d :=
  (s.resetInst_spec d).disabled d (by simp [State.resetFields, Inst.reset])

theorem State.resetInst_trace (s : State) (d : Side) : (s.resetInst d).trace = s.trace :=
  (s.resetInst_spec d).trace.trans (State.setInst_trace _ _ _)

theorem State.resetInst_line_ne_contended (s : State) (d : Side) : (s.resetInst d).line ≠ .contended := by
  have hin : ((s.resetInst d).inst d).dir = .input := by
    rw [State.resetInst_inst, State.resetFields, State.inst_setInst]
    rfl
  simp only [ne_eq, State.line_eq_contended_iff, State.driven_iff_of_input hin, Inst.Drives]
  rintro ⟨⟨-, hlow⟩, -, hhigh⟩
  simp [hlow] at hhigh

theorem State.afterPick_params (s : State) : s.afterPick.params = s.params := by
  rcases s.afterPick_cases with h | h <;> rw [h]
  rfl

end

/-- Settles O51: the reset writes the fields of its controller, and the detectors, its own being off, then look at a
line that its port does not drive. -/
theorem oneControllerReset : Obligations.OneControllerReset := by
  intro s d hpick
  refine ⟨_, step_of_pick hpick, ?_, ?_, ?_, ⟨drawBit s.afterPick.drawn, ?_⟩, State.resetInst_line_ne_contended _ d⟩
  · rw [State.resetInst_now, State.afterPick_now]
  · rw [State.resetInst_trace, State.afterPick_trace]
  · simpa using s.afterPick.resetInst_partner d
  · rw [State.resetInst_inst, State.resetFields, State.inst_setInst, State.afterPick_inst, State.afterPick_now,
      State.afterPick_params, Params.ieReset_eq]
    rfl

end Sys2Proof.Machine
end

section
/-! PROOFS of the obligations about faults (60_exceptions.md). No zero-time step takes a fault out of FAULTS
(`runMicro_records`), and but for the handler's return none touches a context that is not its own
(`runMicro_onlyOwnContext`); the steps of the agents are made of these. -/

namespace Sys2Proof.Machine

/-! ### O55: what was recorded stays recorded -/

/-- The fault is in FAULTS of the controller whose operation runs. -/
def State.Records (s : State) (c : FaultCode) : Prop := c ∈ s.self.faults

section
variable {s t : State} {m : Micro} {c : FaultCode} {i : Inst}

theorem State.Records.setSelf (h : s.Records c) (hi : i.faults = s.self.faults) : (s.setSelf i).Records c := by
  simpa [State.Records, hi] using h

theorem State.Records.setCtx (h : s.Records c) (x : Context) : (s.setCtx s.cur x).Records c := by
  simpa [State.Records, State.self, State.setCtx] using h

theorem State.Records.afterDraw (h : s.Records c) : s.afterDraw.Records c := by simpa [State.Records] using h

theorem State.Records.afterSample (h : s.Records c) : s.afterSample.Records c := by
  simpa [State.Records, State.afterSample_self] using h

theorem State.Records.sampleThenSetSelf (h : s.Records c) (hi : i.faults = s.self.faults) :
    (s.afterSample.setSelf i).Records c := h.afterSample.setSelf (by rw [hi, s.afterSample_self])

theorem State.Records.afterPoll (h : s.Records c) : s.afterPoll.Records c := by
  rcases s.afterPoll_cases with ht | ht <;> rw [ht]
  · exact h
  · exact h.afterDraw

theorem State.Records.refuse (h : s.Records c) (code : FaultCode) : (s.refuse code).Records c := by
  rw [State.Records, (s.refuse_spec code).self]
  exact mem_insertFault.mpr (.inr h)

/-- A port write at most adds LINE_CONTENTION (R231, R556). -/
theorem State.Records.writePort (h : s.Records c) (dir : Dir) (olat : Bool) : (s.writePort dir olat).Records c := by
  rw [State.Records, (s.writePort_spec dir olat).self.faults_eq]
  simp only
  split
  · exact mem_insertFault.mpr (.inr h)
  · exact h

theorem State.Records.withReg {α : Type} {r : Option α} {k : α → State} (h : s.Records c)
    (hk : ∀ v, (k v).Records c) : (s.withReg r k).Records c := by
  rcases s.withReg_cases r k with ⟨v, -, ht⟩ | ⟨-, ht⟩ <;> rw [ht]
  · exact hk v
  · exact h.refuse _

theorem State.Records.withDesc {k : Descriptor → State} (h : s.Records c) (hk : ∀ e, (k e).Records c) :
    (s.withDesc k).Records c := by
  rcases s.withDesc_cases k with ⟨e, -, ht⟩ | ⟨-, ht⟩ <;> rw [ht]
  · exact hk e
  · exact h.refuse _

theorem State.Records.withLen {k : Nat → State} (h : s.Records c) (hk : ∀ n, (k n).Records c) :
    (s.withLen k).Records c := h.withDesc fun _ => hk _

theorem State.Records.memRead {n : Nat} {k : Byte → State} (h : s.Records c) (hk : ∀ v, (k v).Records c) :
    (s.memRead n k).Records c := by
  rcases s.memRead_cases n k with ⟨-, v, -, -, ht⟩ | ⟨-, -, -, ht⟩ | ⟨-, ht⟩ <;> rw [ht]
  · exact hk v
  · exact h.refuse _
  · exact h.refuse _

theorem State.Records.memWrite (h : s.Records c) (n : Nat) (v : Byte) : (s.memWrite n v).Records c := by
  rcases s.memWrite_cases n v with ⟨e, b, -, -, ht⟩ | ⟨-, -, -, ht⟩ | ⟨-, ht⟩ <;> rw [ht]
  · exact h.setSelf rfl
  · exact h.refuse _
  · exact h.refuse _

theorem exec_records {o : Instr} (h : exec o s = .next t) (hs : s.Records c) : t.Records c := by
  cases o with
  | setout | setin | drvh | drvl => cases h; exact hs.writePort _ _
  | rdlvl => cases h; exact hs.sampleThenSetSelf rfl
  | delay =>
    simp only [exec, execDelay] at h
    split at h <;> cases h
    · exact hs.afterDraw.setCtx _
    · exact hs.refuse _
  | waith =>
    simp only [exec, execWaith] at h
    split at h <;> cases h
    · exact hs.afterPoll
    · exact hs.afterPoll.afterDraw.setCtx _
  | rdbit =>
    cases h
    refine hs.afterSample.withReg fun a => State.Records.setCtx ?_ _
    exact hs.sampleThenSetSelf rfl
  | wrbit | wrbyte | rdbyte | ssync | rsync => cases h; exact hs.setCtx _
  | ckclr | edgeen | edgedis | irqoff => cases h; exact hs.setSelf rfl
  | ckadd | ckfold | irqon => cases h; exact hs.withReg fun _ => hs.setSelf rfl
  | ckaddr | ckcmp => cases h; exact hs.withReg fun _ => hs.withReg fun _ => hs.setSelf rfl
  | initi =>
    simp only [exec, execIniti] at h
    split at h <;> cases h
    · exact hs.refuse _
    · have htable : (s.setSelf { s.self.disableEdges with table := some s.self.argTable }).Records c := hs.setSelf rfl
      exact ((htable.writePort _ _).writePort _ _).setSelf rfl
  | initt =>
    simp only [exec, execInitt] at h
    split at h <;> cases h
    · exact hs.refuse _
    · exact (hs.writePort _ _).setCtx _
  | txn =>
    simp only [exec, execTxn] at h
    split at h <;> cases h
    · exact hs.refuse _
    · exact hs.refuse _
    · exact hs.withDesc fun _ => hs.setCtx _
  | tgtisr =>
    simp only [exec, execTgtisr] at h
    split at h <;> cases h
    · exact hs.refuse _
    · exact hs.withDesc fun _ => hs.setCtx _

/-- No zero-time step takes a fault out of FAULTS (R59). -/
theorem runMicro_records (h : runMicro m s = .next t) (hs : s.Records c) : t.Records c := by
  cases m with
  | op => exact exec_records h hs
  | setSt | accClear | idxClear | setOutcome | armTarget | handlerReturn => cases h; exact hs.setSelf rfl
  | accToRes | idxNext => cases h; exact hs.withReg fun _ => hs.setSelf rfl
  | presence =>
    cases h
    refine hs.withReg fun v => ?_
    split
    · exact hs.setCtx _
    · exact hs
  | recvLoop | sendLoop =>
    cases h
    refine hs.withReg fun _ => hs.withLen fun _ => ?_
    split
    · exact hs.setCtx _
    · exact hs
  | storeRes => cases h; exact hs.withReg fun _ => hs.withReg fun _ => hs.memWrite _ _
  | decideOutcome | sendCk => cases h; exact hs.withReg fun _ => hs.setCtx _
  | fetchByte => cases h; exact hs.withReg fun _ => hs.memRead fun _ => hs.setCtx _

end

/-- From `s` to `t` the trace only grew, and FAULTS of `d` lost nothing. -/
structure RecordGrows (s t : State) (d : Side) : Prop where
  trace : s.trace <+: t.trace
  faults : (s.inst d).faults ⊆ (t.inst d).faults

section
variable {s t u : State} {m : Micro} {a : Agent} {c : ContextId} {d : Side}

theorem RecordGrows.trans (h1 : RecordGrows s t d) (h2 : RecordGrows t u d) : RecordGrows s u d :=
  ⟨h1.trace.trans h2.trace, List.Subset.trans h1.faults h2.faults⟩

theorem RecordGrows.of_eq (htrace : t.trace = s.trace) (hfaults : (t.inst d).faults = (s.inst d).faults) :
    RecordGrows s t d := ⟨htrace ▸ List.prefix_refl _, hfaults ▸ List.Subset.refl _⟩

theorem runMicro_recordGrows (h : runMicro m s = .next t) : RecordGrows s t s.cur.side := by
  obtain ⟨_, -, heffect⟩ := runMicro_microEffect h
  obtain ⟨l, htrace, -⟩ := heffect.trace
  have hself : t.self = t.inst s.cur.side := by rw [State.self, runMicro_cur h]
  exact ⟨⟨l, htrace.symm⟩, hself ▸ fun _ hc => runMicro_records h hc⟩

theorem State.refuse_recordGrows (s : State) (code : FaultCode) : RecordGrows s (s.refuse code) s.cur.side := by
  have h := s.refuse_spec code
  have hself : (s.refuse code).self = (s.refuse code).inst s.cur.side := by rw [State.self, h.globals.cur_eq]
  exact ⟨⟨_, h.trace.symm⟩, hself ▸ fun _ hc => State.Records.refuse hc code⟩

theorem State.finish_recordGrows (s : State) : RecordGrows s s.finish s.cur.side := by
  refine .of_eq s.finish_trace ?_
  rcases s.finish_cases with h | ⟨-, h⟩ <;> rw [h]
  simp [State.setStatus, State.setCtx]

theorem State.hostStore_recordGrows (s : State) (k : Nat) (v : Byte) :
    RecordGrows s (s.hostStore k v) s.cur.side := by
  rcases s.hostStore_cases k v with h | ⟨code, h⟩ | ⟨e, b, -, h⟩ <;> rw [h]
  · exact .of_eq rfl rfl
  · exact s.refuse_recordGrows code
  · exact .of_eq (State.setSelf_trace s _) (by rw [State.setSelf_inst]; rfl)

theorem State.running_recordGrows (s : State) (c : ContextId) (code : List Micro) :
    RecordGrows s (s.running c code) c.side := by
  refine .of_eq (s.setCtx_trace c _) ?_
  exact (congrArg Inst.faults (s.running_self c code)).trans (Inst.setCtx_faults _ _ _)

theorem State.issue_recordGrows (s : State) (d : Side) (op : Byte) (script : List HostItem) :
    RecordGrows s (s.issue d op script) d :=
  have hself : (s.issue d op script).inst d = _ := s.issue_self d op script
  .of_eq (s.setInst_trace d _) (by rw [hself])

theorem runContext_recordGrows (h : runContext c s = .next t) : RecordGrows s t c.side := by
  rcases runContext_cases h with ⟨-, rfl⟩ | ⟨m, ms, u, -, hu, rfl⟩
  · exact .of_eq (s.setCtx_trace c _) (by rw [State.setCtx_withCur_inst, Inst.setCtx_faults])
  · have hfinish := u.finish_recordGrows
    rw [runMicro_cur hu] at hfinish
    exact (s.running_recordGrows c ms).trans ((runMicro_recordGrows hu).trans hfinish)

theorem issueHost_recordGrows (h : issueHost d s = .next t) : RecordGrows s t d := by
  rcases issueHost_cases h with ⟨script, rfl⟩ | ⟨script, k, v, rfl⟩ | ⟨o, script, ho⟩ | ⟨op, script, code, rfl⟩
  · exact .of_eq (s.setInst_trace d _) (by rw [State.inst_setInst])
  · exact (s.issue_recordGrows d 0 script).trans (State.hostStore_recordGrows _ k v)
  · exact (s.issue_recordGrows d o.opcode script).trans (runMicro_recordGrows (m := .op o) ho)
  · exact (s.issue_recordGrows d op script).trans (State.refuse_recordGrows _ code)

theorem State.edgeStep_recordGrows (s : State) (d : Side) : RecordGrows s (s.edgeStep d) d := by
  rcases s.edgeStep_cases d with ⟨-, h⟩ | ⟨u, time, rfl | rfl, h⟩ <;> rw [h]
  · exact .of_eq (State.setInst_trace _ _ _) (by rw [State.inst_setInst]; rfl)
  · exact .of_eq (State.setInst_trace _ _ _) (by rw [State.inst_setInst])
  · exact .of_eq (State.setInst_trace _ _ _) (by rw [State.inst_setInst])

/-- A step of an agent that is no reset keeps the record of its own controller (R553, R59). -/
theorem runAgent_recordGrows (h : runAgent a s = .next t) (ha : a ≠ .reset a.side) : RecordGrows s t a.side := by
  cases a with
  | context c =>
    simp only [runAgent] at h
    split at h
    · exact issueHost_recordGrows h
    · exact runContext_recordGrows h
  | edge d => cases h; exact s.edgeStep_recordGrows d
  | reset d => exact absurd rfl ha

theorem runAgent_trace_prefix (h : runAgent a s = .next t) : s.trace <+: t.trace := by
  cases a with
  | context | edge => exact (runAgent_recordGrows h nofun).trace
  | reset d =>
    cases h
    rw [State.resetInst_trace]

theorem runAgent_faults_subset (h : runAgent a s = .next t) (ha : a ≠ .reset d) :
    (s.inst d).faults ⊆ (t.inst d).faults := by
  by_cases hside : d = a.side
  · subst hside
    exact (runAgent_recordGrows h ha).faults
  · rw [Side.eq_other_of_ne hside, (runAgent_partner h).faults_eq]
    exact List.Subset.refl _

end

/-- Settles O55: a step of an agent keeps the record of its own controller, but for a reset, and of the partner. -/
theorem faultsAreSticky : Obligations.FaultsAreSticky := by
  intro s t h
  rcases step_cases h with ⟨a, hpick, hrun⟩ | ⟨n, -, rfl⟩
  · obtain ⟨l, htrace⟩ := runAgent_trace_prefix hrun
    rw [State.afterPick_trace] at htrace
    refine ⟨⟨l, htrace.symm⟩, fun d c hreset hc => runAgent_faults_subset hrun (fun ha => hreset (ha ▸ hpick)) ?_⟩
    rwa [State.afterPick_inst]
  · refine ⟨⟨[], (List.append_nil _).symm⟩, fun d c _ hc => ?_⟩
    exact (s.advanceTo_inst n d).symm ▸ hc

/-! ### O56: a halted agent -/

section
variable {s t : State} {m : Micro} {a : Agent} {c e : ContextId} {d : Side}

theorem State.not_ready_of_halted (h : (s.ctx c).status = .halted) : s.ready (.context c) = false := by
  refine State.ready_eq_false ?_
  change ((s.inst c.side).ctx c.kind).status = .halted at h
  simp [State.due, Inst.contextDue, h]

/-- The handler's return, which the interrupt context alone takes, resumes no halted host. -/
theorem State.leaveHandler_halted (hkind : s.cur.kind = .interrupt) (hne : c ≠ s.cur)
    (hc : (s.ctx c).status = .halted) : ((s.setSelf s.self.leaveHandler).ctx c).status = .halted := by
  obtain ⟨d, k⟩ := c
  by_cases hside : d = s.cur.side
  · subst hside
    cases k with
    | ordinary =>
      change s.self.ordinary.status = .halted at hc
      have hkept : s.self.ordinary.resume = s.self.ordinary := Context.resume_of_not_polling (by simp [hc])
      rw [State.ctx, State.setSelf_inst]
      exact (congrArg Context.status hkept).trans hc
    | interrupt => exact absurd (by rw [← hkind]) hne
  · rwa [State.ctx, State.setSelf, State.inst_setInst_ne s _ hside]

theorem runMicro_halted (h : runMicro m s = .next t) (hm : s.cur.kind.mayRun m = true) (hne : c ≠ s.cur)
    (hc : (s.ctx c).status = .halted) : (t.ctx c).status = .halted := by
  by_cases hreturn : m = .handlerReturn
  · subst hreturn
    cases h
    refine State.leaveHandler_halted ?_ hne hc
    cases hkind : s.cur.kind with
    | ordinary => simp [hkind, ContextKind.mayRun] at hm
    | interrupt => rfl
  · rw [(runMicro_onlyOwnContext h hreturn).ctx c hne]
    exact hc

theorem OnlyOwnContext.finish (s : State) : OnlyOwnContext s s.finish := by
  rcases s.finish_cases with h | ⟨-, h⟩ <;> rw [h]
  · exact .refl s
  · exact .setCtx s _

theorem OnlyOwnContext.hostStore (s : State) (k : Nat) (v : Byte) : OnlyOwnContext s (s.hostStore k v) := by
  rcases s.hostStore_cases k v with h | ⟨code, h⟩ | ⟨e, b, -, h⟩ <;> rw [h]
  · exact .refl s
  · exact .refuse s code
  · exact .setSelf rfl rfl

theorem State.setCtx_withCur_ctx_ne (s : State) (x : Context) (h : c ≠ e) :
    State.ctx { s.setCtx e x with cur := e } c = s.ctx c :=
  (congrArg (Inst.ctx · c.kind) (State.inst_withCur _ e c.side)).trans (s.ctx_setCtx_ne x h)

/-- A context that runs leaves every halted context halted. -/
theorem runContext_halted (h : runContext e s = .next t) (hs : s.Inv) (hne : c ≠ e)
    (hc : (s.ctx c).status = .halted) : (t.ctx c).status = .halted := by
  rcases runContext_cases h with ⟨-, rfl⟩ | ⟨m, ms, u, hcode, hu, rfl⟩
  · rwa [State.setCtx_withCur_ctx_ne s _ hne]
  · have hm : e.kind.mayRun m = true := ((hs.inst e.side).codeOk e.kind).code m (hcode ▸ List.mem_cons_self)
    have hrunning : (s.running e ms).ctx c = s.ctx c := s.setCtx_withCur_ctx_ne _ hne
    rw [(OnlyOwnContext.finish u).ctx c (runMicro_cur hu ▸ hne)]
    exact runMicro_halted hu hm hne (hrunning ▸ hc)

theorem State.setScript_ctx (s : State) (d : Side) (script : List HostItem) (c : ContextId) :
    (s.setInst d { s.inst d with script := script }).ctx c = s.ctx c := by
  obtain ⟨e, k⟩ := c
  cases d <;> cases e <;> cases k <;> rfl

theorem State.issue_ctx_ne (s : State) (op : Byte) (script : List HostItem) (h : c ≠ d.host) :
    (s.issue d op script).ctx c = s.ctx c := by
  obtain ⟨e, k⟩ := c
  by_cases he : e = d
  · subst he
    cases k with
    | ordinary => exact absurd rfl h
    | interrupt => cases e <;> rfl
  · rw [Side.eq_other_of_ne he]
    exact congrArg (Inst.ctx · k) (s.issue_partner d op script)

/-- A host's move changes no context but its own. -/
theorem issueHost_ctx_ne (h : issueHost d s = .next t) (hne : c ≠ d.host) : t.ctx c = s.ctx c := by
  rcases issueHost_cases h with ⟨script, rfl⟩ | ⟨script, k, v, rfl⟩ | ⟨o, script, ho⟩ | ⟨op, script, code, rfl⟩
  · exact s.setScript_ctx d script c
  · exact ((OnlyOwnContext.hostStore _ k v).ctx c hne).trans (s.issue_ctx_ne 0 script hne)
  · exact ((OnlyOwnContext.op ho).ctx c hne).trans (s.issue_ctx_ne _ script hne)
  · exact ((OnlyOwnContext.refuse _ code).ctx c hne).trans (s.issue_ctx_ne op script hne)

/-- The delivery of an edge needs an idle interrupt context, and starts that one alone (R386). -/
theorem State.edgeStep_halted {k : ContextKind} (hc : ((s.inst d).ctx k).status = .halted) :
    (((s.edgeStep d).inst d).ctx k).status = .halted := by
  rcases s.edgeStep_cases d with ⟨hdeliverable, h⟩ | ⟨u, time, -, h⟩ <;> rw [h, State.inst_setInst]
  · obtain ⟨-, -, -, hidle, -⟩ := Inst.deliverable_iff.mp hdeliverable
    cases k with
    | ordinary => exact hc
    | interrupt => cases hidle.symm.trans hc
  · cases k <;> exact hc

/-- An agent that a refusal halted stays halted across the reset of its controller (log entry 14). -/
theorem State.resetInst_halted {k : ContextKind} (hc : ((s.inst d).ctx k).status = .halted) :
    (((s.resetInst d).inst d).ctx k).status = .halted := by
  rw [State.resetInst_inst, State.resetFields, State.inst_setInst]
  cases k <;> exact if_pos hc

/-- No step of another agent wakes a halted one. -/
theorem runAgent_halted (h : runAgent a s = .next t) (hs : s.Inv) (hready : s.ready a = true)
    (hc : (s.ctx c).status = .halted) : (t.ctx c).status = .halted := by
  by_cases hside : c.side = a.side
  · cases a with
    | context e =>
      have hne : c ≠ e := by
        rintro rfl
        simp [State.not_ready_of_halted hc] at hready
      simp only [runAgent] at h
      split at h
      · next hidle =>
        have hhost : e = e.side.host := by
          obtain ⟨d, k⟩ := e
          cases State.ordinary_of_ready_idle hready hidle
          rfl
        rw [issueHost_ctx_ne h (hhost ▸ hne)]
        exact hc
      · exact runContext_halted h hs hne hc
    | edge d =>
      cases h
      obtain rfl : c.side = d := hside
      exact State.edgeStep_halted hc
    | reset d =>
      cases h
      obtain rfl : c.side = d := hside
      exact State.resetInst_halted hc
  · have hpartner := runAgent_partner h
    rw [← Side.eq_other_of_ne hside] at hpartner
    rw [State.ctx, hpartner.ctx_eq]
    exact hc

end

/-- Settles O56: a halted context is due at no instant, and no step of another agent wakes it. -/
theorem haltedStaysHalted : Obligations.HaltedStaysHalted := by
  intro s t c hs hc
  refine ⟨State.not_ready_of_halted hc, fun h => ?_⟩
  rcases step_cases h with ⟨a, hpick, hrun⟩ | ⟨n, -, rfl⟩
  · exact runAgent_halted hrun hs.afterPick ((s.afterPick_ready a).trans (State.ready_of_pick hpick)) (by simpa using hc)
  · exact (congrArg Context.status (s.advanceTo_ctx n c)).trans hc

end Sys2Proof.Machine
end
